-- ==== Sys2Proof/Word.lean ====
section
/-! DEFINITION. The widths the spec fixes: an address is 16 bits, a data value one byte (R13), a transaction word 26 bits (R71). -/

namespace Sys2Proof

/-- A data value, one byte (R13). -/
abbrev Byte := BitVec 8

/-- A CPU-side address (R13). -/
abbrev Addr := BitVec 16

/-- The transaction word `T` (R71). -/
abbrev TWord := BitVec 26

end Sys2Proof
end

