-- ==== Sys2Proof/Config.lean ====
section
/-! DEFINITION. What is fixed when the block is constructed: the configuration record `cfg` (R8, R9), the reference
instance `CFG_REF` (R12), the launch (R10), and the one free value of the model (R93). -/

namespace Sys2Proof

/-- What the `ramBank` register feeds (R9, `ramSelMode`). -/
inductive RamSelMode where
  /-- `RAM_BANK`: the RAM bank index. -/
  | ramBank
  /-- `ROM_HIGH`: the high bits of the ROM bank index. -/
  | romHigh
  deriving DecidableEq, Repr

/-- The two image spaces that hold cells (R38). -/
inductive Space where
  | rom
  | ram
  deriving DecidableEq, Repr

/-- The configuration record `cfg`, field by field as R9 lists it. -/
structure Cfg where
  romBankSize : Nat
  ramBankSize : Nat
  rom0Base : Addr
  romXBase : Addr
  ramBase : Addr
  ramEnBase : Addr
  ramEnSize : Nat
  romSelBase : Addr
  romSelSize : Nat
  ramSelBase : Addr
  ramSelSize : Nat
  romBankBits : Nat
  ramBankBits : Nat
  zeroRemap : Bool
  ramSelMode : RamSelMode
  enMask : Byte
  enValue : Byte
  openBus : Byte
  deriving DecidableEq, Repr

/-- `CFG_REF` (R9, R12). PRESUMED (entries 12 and 13): the register-window addresses (G1, D3) and the two register
widths (G2, D6) come from general knowledge, as the spec itself says. -/
def Cfg.ref : Cfg where
  romBankSize := 0x4000
  ramBankSize := 0x2000
  rom0Base := 0x0000#16
  romXBase := 0x4000#16
  ramBase := 0xA000#16
  ramEnBase := 0x0000#16
  ramEnSize := 0x2000
  romSelBase := 0x2000#16
  romSelSize := 0x2000
  ramSelBase := 0x4000#16
  ramSelSize := 0x2000
  romBankBits := 5
  ramBankBits := 2
  zeroRemap := true
  ramSelMode := .ramBank
  enMask := 0x0F#8
  enValue := 0x0A#8
  openBus := 0xFF#8

/-- The fixed part of a launch: `cfg`, the ROM image and the length of the RAM image (R10). The initial contents of
the RAM image are the other launch parameter and are state (R27). -/
structure Launch where
  cfg : Cfg
  romLen : Nat
  /-- The ROM image's bytes, as a canonical list of cells (see `Sys2Proof.Machine.Mem.wf`). -/
  rom : List Host.Cell
  ramLen : Nat
  deriving DecidableEq, Repr

/-- The launch `State.reset` is constructed from. DESIGN CHOICE (entry 4): `CFG_REF` with a ROM of four banks (nothing
listed) and a RAM of four banks, the launch of the spec's program P2. -/
def Launch.ref : Launch where
  cfg := Cfg.ref
  romLen := 0x10000
  rom := []
  ramLen := 0x8000

/-- How many banks the ROM image has (R10). -/
def Launch.romBanks (l : Launch) : Nat := l.romLen / l.cfg.romBankSize

/-- How many banks the RAM image has; 0 means that RAM is absent (R10). -/
def Launch.ramBanks (l : Launch) : Nat := l.ramLen / l.cfg.ramBankSize

/-- FREE VALUE (entry 6): the byte the `n`-th foreign read delivers, "an unconstrained draw" (R93, U1). -/
opaque Config.foreignByte : Nat → BitVec 8

end Sys2Proof
end

