-- ==== Sys2Proof/Syntax.lean ====
section
/-! DEFINITION. The decoded operations (R74) and the reserved word (R77): one constructor per mnemonic of the opcode
table. The table gives `RD_FOREIGN` and `WR_FOREIGN` two rows each, two address ranges of one operation. -/

namespace Sys2Proof

/-- A decoded operation with its operands: `a` the CPU-side address, `d` the data byte (R70). -/
inductive Instr where
  /-- `RD_ROM0` (R110): a read of the fixed ROM window. -/
  | rdRom0 (a : Addr)
  /-- `RD_ROMX` (R111): a read of the switchable ROM window. -/
  | rdRomX (a : Addr)
  /-- `RD_RAM` (R112): a read of the RAM window. -/
  | rdRam (a : Addr)
  /-- `RD_FOREIGN` (R113): a read of an address in no storage window. -/
  | rdForeign (a : Addr)
  /-- `WR_RAMEN` (R120): a write into the RAM-enable window. -/
  | wrRamen (a : Addr) (d : Byte)
  /-- `WR_ROMSEL` (R121): a write into the ROM-select window. -/
  | wrRomsel (a : Addr) (d : Byte)
  /-- `WR_RAMSEL` (R122): a write into the RAM-select window. -/
  | wrRamsel (a : Addr) (d : Byte)
  /-- `WR_RAM` (R130): a write into the RAM window. -/
  | wrRam (a : Addr) (d : Byte)
  /-- `WR_IGN` (R131): a write into a ROM window at an address no register window covers. -/
  | wrIgn (a : Addr) (d : Byte)
  /-- `WR_FOREIGN` (R132): a write to an address in no window at all. -/
  | wrForeign (a : Addr) (d : Byte)
  /-- `POWER` (R140). -/
  | power
  /-- `RESERVED` (R77): a word of kind 11, which spells no operation. -/
  | reserved
  deriving DecidableEq, Repr

end Sys2Proof
end

