-- ==== Sys2Proof/Decode.lean ====
section
/-! DEFINITION. The windows (R41 to R44), the transaction word (R71, R72), the address decoder (R74, R90, R91), the
encoder, and the spec's pseudo-operations (R80). -/

namespace Sys2Proof

/-! ### Windows -/

/-- The predicate `in(a, base, size)` of R15: `base <= a < base + size` on naturals. -/
def inWin (a base : Addr) (size : Nat) : Bool :=
  decide (base.toNat ≤ a.toNat) && decide (a.toNat < base.toNat + size)

/-- The fixed ROM window (R41). -/
def Cfg.inRom0 (c : Cfg) (a : Addr) : Bool := inWin a c.rom0Base c.romBankSize

/-- The switchable ROM window (R42). -/
def Cfg.inRomX (c : Cfg) (a : Addr) : Bool := inWin a c.romXBase c.romBankSize

/-- The RAM window (R43). -/
def Cfg.inRam (c : Cfg) (a : Addr) : Bool := inWin a c.ramBase c.ramBankSize

/-- The RAM-enable register window (R44). -/
def Cfg.inRamEn (c : Cfg) (a : Addr) : Bool := inWin a c.ramEnBase c.ramEnSize

/-- The ROM-select register window (R44). -/
def Cfg.inRomSel (c : Cfg) (a : Addr) : Bool := inWin a c.romSelBase c.romSelSize

/-- The RAM-select register window (R44). -/
def Cfg.inRamSel (c : Cfg) (a : Addr) : Bool := inWin a c.ramSelBase c.ramSelSize

/-- `a` is in one of the three storage windows (R40). -/
def Cfg.inStorage (c : Cfg) (a : Addr) : Bool := c.inRom0 a || c.inRomX a || c.inRam a

/-- `a` is in one of the three register windows (R44). -/
def Cfg.inRegister (c : Cfg) (a : Addr) : Bool := c.inRamEn a || c.inRomSel a || c.inRamSel a

/-! ### Operations and their word -/

/-- The three bus operations of the public contract (R2, R16, R70). -/
inductive Op where
  | power
  | rd (a : Addr)
  | wr (a : Addr) (d : Byte)
  deriving DecidableEq, Repr

/-- `T[25:24]` (R71). -/
def fieldKind (w : TWord) : BitVec 2 := w.extractLsb' 24 2

/-- `T[23:8]` (R71). -/
def fieldAddr (w : TWord) : Addr := w.extractLsb' 8 16

/-- `T[7:0]` (R71). -/
def fieldData (w : TWord) : Byte := w.extractLsb' 0 8

/-- The word with the three given fields (R71). -/
def packWord (kind : BitVec 2) (a : Addr) (d : Byte) : TWord := kind ++ a ++ d

/-- The operation a word spells; none for kind 11 (R71, R77). Fields the format does not have are ignored (R72). -/
def parseOp (w : TWord) : Option Op :=
  if fieldKind w = 0#2 then some (.rd (fieldAddr w))
  else if fieldKind w = 1#2 then some (.wr (fieldAddr w) (fieldData w))
  else if fieldKind w = 2#2 then some .power
  else none

/-- The canonical word of an operation: absent fields are zero (R72). -/
def Op.word : Op → TWord
  | .power => packWord 2#2 0#16 0#8
  | .rd a => packWord 0#2 a 0#8
  | .wr a d => packWord 1#2 a d

/-! ### The address decoder -/

/-- Read decode (R90). -/
def decodeRD (c : Cfg) (a : Addr) : Instr :=
  if c.inRom0 a then .rdRom0 a
  else if c.inRomX a then .rdRomX a
  else if c.inRam a then .rdRam a
  else .rdForeign a

/-- Write decode, the cases tried in the order R91 writes them. -/
def decodeWR (c : Cfg) (a : Addr) (d : Byte) : Instr :=
  if c.inRamEn a then .wrRamen a d
  else if c.inRomSel a then .wrRomsel a d
  else if c.inRamSel a then .wrRamsel a d
  else if c.inRam a then .wrRam a d
  else if c.inRom0 a || c.inRomX a then .wrIgn a d
  else .wrForeign a d

/-- The decode map of R74. -/
def decodeOp (c : Cfg) : Op → Instr
  | .power => .power
  | .rd a => decodeRD c a
  | .wr a d => decodeWR c a d

/-- The decoder on words: total on all `2^26` of them (R72, R74, R77). -/
def decode (c : Cfg) (w : TWord) : Instr :=
  match parseOp w with
  | some op => decodeOp c op
  | none => .reserved

/-! ### The encoder -/

/-- The operation a decoded operation stands for; none for `RESERVED` (R74). -/
def Instr.op : Instr → Option Op
  | .rdRom0 a => some (.rd a)
  | .rdRomX a => some (.rd a)
  | .rdRam a => some (.rd a)
  | .rdForeign a => some (.rd a)
  | .wrRamen a d => some (.wr a d)
  | .wrRomsel a d => some (.wr a d)
  | .wrRamsel a d => some (.wr a d)
  | .wrRam a d => some (.wr a d)
  | .wrIgn a d => some (.wr a d)
  | .wrForeign a d => some (.wr a d)
  | .power => some .power
  | .reserved => none

/-- The word of kind 11 the encoder writes. DEDUCED (entry 20): its ignored fields are zero, as R72 says of the others. -/
def reservedWord : TWord := packWord 3#2 0#16 0#8

/-- The canonical word of a decoded operation (R71, R72). -/
def encode (i : Instr) : TWord :=
  match i.op with
  | some op => op.word
  | none => reservedWord

/-- A word with the fields its format does not have set to zero (R72). -/
def canonicalWord (w : TWord) : TWord :=
  match parseOp w with
  | some op => op.word
  | none => reservedWord

/-! ### Numbers at the host's interface -/

/-- Why a number spells no transaction word. -/
inductive Reject where
  /-- A bit above bit 25 is set: a transaction word has 26 bits (R71). -/
  | wordTooWide
  deriving DecidableEq, Repr

/-- The transaction word a number spells, or the reason why it spells none (entry 19). -/
def readWord (n : Nat) : Except Reject TWord :=
  if n < 2 ^ 26 then .ok (BitVec.ofNat 26 n) else .error .wordTooWide

/-- The decoder on numbers, total, rejecting by name. -/
def decodeNat (c : Cfg) (n : Nat) : Except Reject Instr :=
  match readWord n with
  | .ok w => .ok (decode c w)
  | .error e => .error e

/-- The instruction the decoder reads from a word numbered as spec/opcode_table.json numbers it; the table is stated
for `CFG_REF` (R12, R75). -/
def decodeTableWord (nbits w : Nat) : Option Instr :=
  match decodeNat Cfg.ref (w % 2 ^ nbits) with
  | .ok i => some i
  | .error _ => none

/-! ### Pseudo-operations -/

/-- The spec's pseudo-operations (R80). -/
inductive Pseudo where
  | ramOn
  | ramOff
  | romBank (n : Byte)
  | ramBank (n : Byte)
  deriving DecidableEq, Repr

/-- The one `WR` a pseudo-operation expands to; `RAMOFF` requires `enValue != 0` (R80). -/
def Pseudo.expand (c : Cfg) : Pseudo → Option Op
  | .ramOn => some (.wr c.ramEnBase c.enValue)
  | .ramOff => if c.enValue = 0#8 then none else some (.wr c.ramEnBase 0#8)
  | .romBank n => some (.wr c.romSelBase n)
  | .ramBank n => some (.wr c.ramSelBase n)

end Sys2Proof
end

