-- ==== Sys2Proof/Machine/State.lean ====
section
/-! DEFINITION. What the machine holds: the four pieces of state of R20, the launch they are interpreted under, and the
model's own fields for the operations presented, the byte returned and the free values drawn. -/

namespace Sys2Proof.Machine

/-- The block raises no exception, fault, trap or error of any kind (R150), so there is no fault. -/
inductive Fault where
  deriving DecidableEq, Repr

/-- Why a step has no meaning (R152). -/
inductive Refusal where
  /-- Raised by an arm of `exec` whose instruction has no meaning yet. Safe: the model stops. -/
  | notModelled (mnemonic : String)
  /-- Raised by the step and by every decoded operation when the launch is not well formed (R11, U4; entry 10). Safe. -/
  | illFormedLaunch
  /-- Raised by a meaning given an address the decoder never gives it (R74; entry 11). Safe: no step raises it. -/
  | operandOutsideWindow
  /-- Raised by `RESERVED`: the word spells no operation (R77, U3; entry 9). Safe. -/
  | reservedWord
  deriving DecidableEq, Repr

/-- The state. `ramEnable`, `romBank`, `ramBank` and `ram` are the hardware's (R20); `launch` is fixed (R8, R10) and
carried here because the host's step takes a state only (entry 1); `bus`, `out` and `draws` are the model's. -/
structure State where
  /-- `cfg`, the ROM and the RAM's length: never changed (R8, R28, R29). -/
  launch : Sys2Proof.Launch
  /-- The RAM-enable latch (R21). -/
  ramEnable : Bool
  /-- The ROM bank register, `romBankBits` wide (R22). -/
  romBank : Sys2Proof.Byte
  /-- The RAM bank register, `ramBankBits` wide (R23). -/
  ramBank : Sys2Proof.Byte
  /-- The contents of the RAM image (R27), a canonical list of cells. -/
  ram : List Host.Cell
  /-- The words the bus master has yet to present, oldest first (R16, R60; entry 2). -/
  bus : List Sys2Proof.TWord
  /-- The Output of the last operation: the byte of a `RD`, nothing for a `WR` or a `POWER` (R16; entry 3). -/
  out : Option Sys2Proof.Byte
  /-- How many free values have been drawn (entry 7). -/
  draws : Nat
  deriving DecidableEq, Repr

/-- What an observer sees between two operations: the state of R20, exactly (R39). -/
structure Snapshot where
  ramEnable : Bool
  romBank : Sys2Proof.Byte
  ramBank : Sys2Proof.Byte
  ram : List Host.Cell
  deriving DecidableEq, Repr

/-- The state at construction, from a launch and the initial RAM contents (R35, R142). -/
def State.construct (l : Sys2Proof.Launch) (ram0 : List Host.Cell) : State where
  launch := l
  ramEnable := false
  romBank := if l.cfg.zeroRemap then 1#8 else 0#8
  ramBank := 0#8
  ram := ram0
  bus := []
  out := none
  draws := 0

/-- The machine right after reset: constructed under the reference launch, with nothing listed in memory (R35, R142,
R170; entries 4 and 5). -/
def State.reset : State := State.construct Sys2Proof.Launch.ref []

end Sys2Proof.Machine
end

