-- ==== Sys2Proof/Machine/Operands.lean ====
section
/-! DEFINITION. Operand assembly (R73), masking and zero remap (R96, R97), and the bank multiplexer: effective banks and
physical indices (R46 to R49). All arithmetic is exact, on naturals (R95). -/

namespace Sys2Proof.Machine

/-- `mask_n(d)` (R96). -/
def mask (n : Nat) (d : Byte) : Byte := d &&& BitVec.ofNat 8 (2 ^ n - 1)

/-- `remap(v)` (R97), applied to the masked value (D7; entry 14). -/
def remap (c : Cfg) (v : Byte) : Byte := if c.zeroRemap && v == 0#8 then 1#8 else v

/-- The ROM bank value a `WR_ROMSEL` stores: masked, then remapped, never reduced (R73, R99, R121). -/
def romBankValue (c : Cfg) (d : Byte) : Byte := remap c (mask c.romBankBits d)

/-- The RAM bank value a `WR_RAMSEL` stores: masked, never reduced (D8; entry 15), the same in both modes (D9; entry 16)
(R73, R122). -/
def ramBankValue (c : Cfg) (d : Byte) : Byte := mask c.ramBankBits d

/-- The value `POWER` gives `romBank` (R140). -/
def romBankPower (c : Cfg) : Byte := if c.zeroRemap then 1#8 else 0#8

/-- The offset of an address in a storage window, `a - base` (R73). -/
def windowOffset (a base : Addr) : Nat := a.toNat - base.toNat

/-- `cfg` of a state. -/
def State.cfg (s : State) : Cfg := s.launch.cfg

/-- `romBankRaw` (R46); the `ROM_HIGH` line is the spec's reading (D9; entry 16). -/
def State.romBankRaw (s : State) : Nat :=
  match s.cfg.ramSelMode with
  | .ramBank => s.romBank.toNat
  | .romHigh => s.ramBank.toNat * 2 ^ s.cfg.romBankBits + s.romBank.toNat

/-- `effRomBank` (R46). -/
def State.effRomBank (s : State) : Nat := s.romBankRaw % s.launch.romBanks

/-- `ramBankRaw` (R47); the `ROM_HIGH` line is the spec's reading (D9; entry 16). -/
def State.ramBankRaw (s : State) : Nat :=
  match s.cfg.ramSelMode with
  | .ramBank => s.ramBank.toNat
  | .romHigh => 0

/-- `effRamBank` (R47), used only when RAM is present. -/
def State.effRamBank (s : State) : Nat := s.ramBankRaw % s.launch.ramBanks

/-- `romIndex0(a)` (R48). DEDUCED: the offset `a - rom0Base` for every base is the spec's own decision (C5, D13;
entry 22), and so is that the fixed window shows bank 0 in `ROM_HIGH` too (D9; entry 16). -/
def State.romIndex0 (s : State) (a : Addr) : Nat :=
  0 * s.cfg.romBankSize + windowOffset a s.cfg.rom0Base

/-- `romIndexX(a)` (R48). -/
def State.romIndexX (s : State) (a : Addr) : Nat :=
  s.effRomBank * s.cfg.romBankSize + windowOffset a s.cfg.romXBase

/-- `ramIndex(a)` (R49). -/
def State.ramIndex (s : State) (a : Addr) : Nat :=
  s.effRamBank * s.cfg.ramBankSize + windowOffset a s.cfg.ramBase

end Sys2Proof.Machine
end

