-- ==== Sys2Proof/Machine/Flags.lean ====
section
/-! DEFINITION. The block's one flag, `ramEnable` (R31): what sets it (R101, R120) and the gate that reads it (R51). -/

namespace Sys2Proof.Machine

/-- `enables(d)` (R101). -/
def enables (c : Cfg) (d : Byte) : Bool := (d &&& c.enMask) == c.enValue

/-- `ramSel`, the RAM gate: RAM is enabled and present (R51). -/
def State.ramSel (s : State) : Bool := s.ramEnable && decide (0 < s.launch.ramBanks)

end Sys2Proof.Machine
end

