-- ==== Sys2Proof/WellFormed.lean ====
section
/-! DEFINITION. Which launches the rules give a meaning to (R11: WF1 to WF5, and the positive sizes of R9), and which
decoded operations carry operands the decoder can give them (R74). -/

namespace Sys2Proof

/-- Two windows share no address. -/
def windowsDisjoint (b₁ : Addr) (s₁ : Nat) (b₂ : Addr) (s₂ : Nat) : Bool :=
  decide (b₁.toNat + s₁ ≤ b₂.toNat) || decide (b₂.toNat + s₂ ≤ b₁.toNat)

/-- A window lies inside `0x0000..0xFFFF`. -/
def windowFits (b : Addr) (s : Nat) : Bool := decide (b.toNat + s ≤ 0x10000)

/-- The sizes R9 types "natural, > 0". -/
def Cfg.sizesPositive (c : Cfg) : Bool :=
  decide (0 < c.romBankSize) && decide (0 < c.ramBankSize) && decide (0 < c.ramEnSize) &&
    decide (0 < c.romSelSize) && decide (0 < c.ramSelSize)

/-- WF3 (R11): the storage windows fit and are pairwise disjoint. -/
def Cfg.wf3 (c : Cfg) : Bool :=
  windowFits c.rom0Base c.romBankSize && windowFits c.romXBase c.romBankSize &&
    windowFits c.ramBase c.ramBankSize &&
    windowsDisjoint c.rom0Base c.romBankSize c.romXBase c.romBankSize &&
    windowsDisjoint c.rom0Base c.romBankSize c.ramBase c.ramBankSize &&
    windowsDisjoint c.romXBase c.romBankSize c.ramBase c.ramBankSize

/-- WF4 (R11): the register windows fit; they and the RAM window are pairwise disjoint. -/
def Cfg.wf4 (c : Cfg) : Bool :=
  windowFits c.ramEnBase c.ramEnSize && windowFits c.romSelBase c.romSelSize &&
    windowFits c.ramSelBase c.ramSelSize &&
    windowsDisjoint c.ramEnBase c.ramEnSize c.romSelBase c.romSelSize &&
    windowsDisjoint c.ramEnBase c.ramEnSize c.ramSelBase c.ramSelSize &&
    windowsDisjoint c.romSelBase c.romSelSize c.ramSelBase c.ramSelSize &&
    windowsDisjoint c.ramEnBase c.ramEnSize c.ramBase c.ramBankSize &&
    windowsDisjoint c.romSelBase c.romSelSize c.ramBase c.ramBankSize &&
    windowsDisjoint c.ramSelBase c.ramSelSize c.ramBase c.ramBankSize

/-- WF5 (R11): the register widths. -/
def Cfg.wf5 (c : Cfg) : Bool :=
  decide (1 ≤ c.romBankBits) && decide (c.romBankBits ≤ 8) && decide (c.ramBankBits ≤ 8)

/-- WF6 (R11), "a warning, not a refusal": some byte enables RAM. No check of the machine uses it. -/
def Cfg.wf6 (c : Cfg) : Bool := c.enValue &&& ~~~ c.enMask == 0#8

/-- The part of well-formedness that is about `cfg` alone. -/
def Cfg.wf (c : Cfg) : Bool := c.sizesPositive && c.wf3 && c.wf4 && c.wf5

/-- WF1 (R11): the ROM is a positive whole number of banks. -/
def Launch.wf1 (l : Launch) : Bool := decide (0 < l.romLen) && l.romLen % l.cfg.romBankSize == 0

/-- WF2 (R11): the RAM is a whole number of banks, possibly none. -/
def Launch.wf2 (l : Launch) : Bool := l.ramLen % l.cfg.ramBankSize == 0

/-- A well-formed launch (R11). -/
def Launch.wf (l : Launch) : Bool := l.cfg.wf && l.wf1 && l.wf2

/-- The operands of a decoded operation satisfy its condition of R74. -/
def Instr.wf (c : Cfg) : Instr → Bool
  | .rdRom0 a => c.inRom0 a
  | .rdRomX a => c.inRomX a
  | .rdRam a => c.inRam a
  | .rdForeign a => !c.inStorage a
  | .wrRamen a _ => c.inRamEn a
  | .wrRomsel a _ => c.inRomSel a
  | .wrRamsel a _ => c.inRamSel a
  | .wrRam a _ => c.inRam a
  | .wrIgn a _ => (c.inRom0 a || c.inRomX a) && !c.inRegister a && !c.inRam a
  | .wrForeign a _ => !c.inStorage a && !c.inRegister a
  | .power => true
  | .reserved => true

end Sys2Proof
end

