-- ==== Sys2Proof/Machine/Ops.lean ====
section
/-! DEFINITION. The named operations over memory, registers, the bus and the output. There is no operation that takes an
exception and none that returns from one: the block raises none (R150, R155, R156). -/

namespace Sys2Proof.Machine

/-! ### Images -/

/-- What a byte of an image reads as when no cell lists it. DESIGN CHOICE (entry 5): the spec's named test images, `PAT`
for ROM and `EE` for RAM (95_test_vectors.md). A launch lists every byte that differs. -/
def unlisted : Space → Nat → Byte
  | .rom, i => BitVec.ofNat 8 (16 * (i / 0x4000) + i % 16)
  | .ram, _ => 0xEE#8

/-- The byte of an image at an index. -/
def Mem.read (sp : Space) : List Host.Cell → Nat → Byte
  | [], i => unlisted sp i
  | (j, b) :: m, i => if i = j then b else Mem.read sp m i

/-- An image with the byte at one index replaced, kept canonical: rising indices, no entry that an unlisted index reads
as anyway. -/
def Mem.write (sp : Space) : List Host.Cell → Nat → Byte → List Host.Cell
  | [], i, v => if v = unlisted sp i then [] else [(i, v)]
  | (j, b) :: m, i, v =>
    if i < j then (if v = unlisted sp i then (j, b) :: m else (i, v) :: (j, b) :: m)
    else if i = j then (if v = unlisted sp i then m else (i, v) :: m)
    else (j, b) :: Mem.write sp m i v

/-- The canonical form from index `lo` on, for an image of `len` bytes. -/
def Mem.wfFrom (sp : Space) (len : Nat) : Nat → List Host.Cell → Bool
  | _, [] => true
  | lo, (j, b) :: m =>
    decide (lo ≤ j) && decide (j < len) && decide (b ≠ unlisted sp j) && Mem.wfFrom sp len (j + 1) m

/-- The canonical form of an image of `len` bytes (I-4 of R36: no index at or above the length is listed). -/
def Mem.wf (sp : Space) (len : Nat) (m : List Host.Cell) : Bool := Mem.wfFrom sp len 0 m

/-- `ROM[i]` (R15). `i` is below the length of the ROM wherever a rule reads it (R50). -/
def State.romByte (s : State) (i : Nat) : Byte := Mem.read .rom s.launch.rom i

/-- `RAM[i]` (R15). `i` is below the length of the RAM wherever a rule reads it (R50). -/
def State.ramByte (s : State) (i : Nat) : Byte := Mem.read .ram s.ram i

/-! ### Updates, one per field -/

/-- `ramEnable <- v`. -/
def State.setRamEnable (s : State) (v : Bool) : State := { s with ramEnable := v }

/-- `romBank <- v`. -/
def State.setRomBank (s : State) (v : Byte) : State := { s with romBank := v }

/-- `ramBank <- v`. -/
def State.setRamBank (s : State) (v : Byte) : State := { s with ramBank := v }

/-- `RAM[i] <- v` (R15). -/
def State.setRamByte (s : State) (i : Nat) (v : Byte) : State :=
  { s with ram := Mem.write .ram s.ram i v }

/-- The words yet to be presented. -/
def State.setBus (s : State) (ws : List TWord) : State := { s with bus := ws }

/-- The Output of the operation (R16). -/
def State.setOut (s : State) (o : Option Byte) : State := { s with out := o }

/-- One more free value has been drawn. -/
def State.countDraw (s : State) : State := { s with draws := s.draws + 1 }

/-! ### Effects the operations share -/

/-- The end of a `RD` that returns `b`: the byte is delivered and nothing else changes (R114). -/
def State.deliver (s : State) (b : Byte) : State := s.setOut (some b)

/-- The end of a `WR` or a `POWER`: nothing is returned (R16, R70). -/
def State.complete (s : State) : State := s.setOut none

/-- A foreign read that continues: state unchanged, the byte a free draw (R93; entry 6). -/
def State.deliverFree (s : State) : State := (s.deliver (Config.foreignByte s.draws)).countDraw

/-- The byte the RAM window shows: through the RAM gate, else the open-bus byte (R51, R52, R112). -/
def State.ramWindowByte (s : State) (a : Addr) : Byte :=
  if s.ramSel then s.ramByte (s.ramIndex a) else s.cfg.openBus

/-- A store through the RAM gate; a gated store is discarded (R51, R130). -/
def State.ramWindowStore (s : State) (a : Addr) (d : Byte) : State :=
  if s.ramSel then s.setRamByte (s.ramIndex a) d else s

/-- The three registers at their power-on values; RAM untouched (R140, R141). -/
def State.powerOn (s : State) : State :=
  ((s.setRamEnable false).setRomBank (romBankPower s.cfg)).setRamBank 0#8

/-- What a snapshot taken now sees (R39). -/
def State.snapshot (s : State) : Snapshot where
  ramEnable := s.ramEnable
  romBank := s.romBank
  ramBank := s.ramBank
  ram := s.ram

/-- A decoded operation takes effect when the launch is well formed (R11, U4; entry 10) and its operands are ones the
decoder gives it (R74; entry 11). -/
def whenLegal (i : Instr) (s after : State) : Host.Outcome State Fault Refusal :=
  if s.launch.wf = false then .refused .illFormedLaunch
  else if i.wf s.cfg = false then .refused .operandOutsideWindow
  else .next after

/-! ### The multiplexer's named outputs (R53) -/

/-- `romAddr`: the ROM index of a ROM read. -/
def State.romAddr (s : State) : Instr → Option Nat
  | .rdRom0 a => some (s.romIndex0 a)
  | .rdRomX a => some (s.romIndexX a)
  | _ => none

/-- `ramAddr`: the RAM index of an access to the RAM window; meaningful only when `ramSel`. -/
def State.ramAddr (s : State) : Instr → Option Nat
  | .rdRam a => if s.ramSel then some (s.ramIndex a) else none
  | .wrRam a _ => if s.ramSel then some (s.ramIndex a) else none
  | _ => none

/-- `ramWe`: `ramSel`, and the operation is a `WR` in the RAM window. -/
def State.ramWe (s : State) : Instr → Bool
  | .wrRam _ _ => s.ramSel
  | _ => false

/-- `dout`: the byte of a defined read. -/
def State.dout (s : State) : Instr → Option Byte
  | .rdRom0 a => some (s.romByte (s.romIndex0 a))
  | .rdRomX a => some (s.romByte (s.romIndexX a))
  | .rdRam a => some (s.ramWindowByte a)
  | _ => none

/-! ### The bus -/

/-- The next word presented, and the state with it taken off the bus; none when no operation is presented (entry 2). -/
def State.fetch (s : State) : Option (TWord × State) :=
  match s.bus with
  | [] => none
  | w :: ws => some (w, s.setBus ws)

/-- The bus master presents the word a number spells, ahead of those already waiting (entry 19). -/
def State.present (s : State) (n : Nat) : State :=
  match readWord n with
  | .ok w => s.setBus (w :: s.bus)
  | .error _ => s

/-- No operation is presented: the block is passive and nothing changes (R7; entry 18). -/
def State.idle (s : State) : Host.Outcome State Fault Refusal :=
  if s.launch.wf = false then .refused .illFormedLaunch else .next s

end Sys2Proof.Machine
end

