-- ==== Sys2Proof/Machine/Power.lean ====
section
/-! DEFINITION. `POWER` (44_power.md) and the reserved word (R77). -/

namespace Sys2Proof.Machine

/-- `POWER` (R140, R141). -/
def execPower (s : State) : Host.Outcome State Fault Refusal :=
  whenLegal .power s s.powerOn.complete

/-- `RESERVED` (R77, U3): a word of kind 11 spells no operation and the spec gives it no effect (entry 9). -/
def execReserved (_s : State) : Host.Outcome State Fault Refusal :=
  .refused .reservedWord

end Sys2Proof.Machine
end

