-- ==== Sys2Proof/Machine/RamWrites.lean ====
section
/-! DEFINITION. The RAM write and the writes that change nothing (43_ram_write_and_ignored_writes.md). -/

namespace Sys2Proof.Machine

/-- `WR_RAM` (R130). -/
def execWrRam (a : Addr) (d : Byte) (s : State) : Host.Outcome State Fault Refusal :=
  whenLegal (.wrRam a d) s (s.ramWindowStore a d).complete

/-- `WR_IGN` (R131). -/
def execWrIgn (a : Addr) (d : Byte) (s : State) : Host.Outcome State Fault Refusal :=
  whenLegal (.wrIgn a d) s s.complete

/-- `WR_FOREIGN` (R132), continued as R93 allows: state unchanged (entry 8). -/
def execWrForeign (a : Addr) (d : Byte) (s : State) : Host.Outcome State Fault Refusal :=
  whenLegal (.wrForeign a d) s s.complete

end Sys2Proof.Machine
end

