-- ==== Sys2Proof/Machine/Reads.lean ====
section
/-! DEFINITION. The read operations (41_read_operations.md). -/

namespace Sys2Proof.Machine

/-- `RD_ROM0` (R110). -/
def execRdRom0 (a : Addr) (s : State) : Host.Outcome State Fault Refusal :=
  whenLegal (.rdRom0 a) s (s.deliver (s.romByte (s.romIndex0 a)))

/-- `RD_ROMX` (R111). -/
def execRdRomX (a : Addr) (s : State) : Host.Outcome State Fault Refusal :=
  whenLegal (.rdRomX a) s (s.deliver (s.romByte (s.romIndexX a)))

/-- `RD_RAM` (R112). -/
def execRdRam (a : Addr) (s : State) : Host.Outcome State Fault Refusal :=
  whenLegal (.rdRam a) s (s.deliver (s.ramWindowByte a))

/-- `RD_FOREIGN` (R113), continued as R93 allows: state unchanged, the byte a free draw (entry 6). -/
def execRdForeign (a : Addr) (s : State) : Host.Outcome State Fault Refusal :=
  whenLegal (.rdForeign a) s s.deliverFree

end Sys2Proof.Machine
end

