-- ==== Sys2Proof/Machine/RegisterWrites.lean ====
section
/-! DEFINITION. The register writes (42_register_writes.md). -/

namespace Sys2Proof.Machine

/-- `WR_RAMEN` (R120). -/
def execWrRamen (a : Addr) (d : Byte) (s : State) : Host.Outcome State Fault Refusal :=
  whenLegal (.wrRamen a d) s (s.setRamEnable (enables s.cfg d)).complete

/-- `WR_ROMSEL` (R121). -/
def execWrRomsel (a : Addr) (d : Byte) (s : State) : Host.Outcome State Fault Refusal :=
  whenLegal (.wrRomsel a d) s (s.setRomBank (romBankValue s.cfg d)).complete

/-- `WR_RAMSEL` (R122). -/
def execWrRamsel (a : Addr) (d : Byte) (s : State) : Host.Outcome State Fault Refusal :=
  whenLegal (.wrRamsel a d) s (s.setRamBank (ramBankValue s.cfg d)).complete

end Sys2Proof.Machine
end

