-- ==== Sys2Proof/Machine/Dispatch.lean ====
section
/-! DEFINITION. One arm per decoded operation. -/

namespace Sys2Proof.Machine

def exec (i : Instr) (s : State) : Host.Outcome State Fault Refusal :=
  match i with
  | .rdRom0 a => Sys2Proof.Machine.execRdRom0 a s
  | .rdRomX a => Sys2Proof.Machine.execRdRomX a s
  | .rdRam a => Sys2Proof.Machine.execRdRam a s
  | .rdForeign a => Sys2Proof.Machine.execRdForeign a s
  | .wrRamen a d => Sys2Proof.Machine.execWrRamen a d s
  | .wrRomsel a d => Sys2Proof.Machine.execWrRomsel a d s
  | .wrRamsel a d => Sys2Proof.Machine.execWrRamsel a d s
  | .wrRam a d => Sys2Proof.Machine.execWrRam a d s
  | .wrIgn a d => Sys2Proof.Machine.execWrIgn a d s
  | .wrForeign a d => Sys2Proof.Machine.execWrForeign a d s
  | .power => Sys2Proof.Machine.execPower s
  | .reserved => Sys2Proof.Machine.execReserved s

end Sys2Proof.Machine
end

