-- ==== Sys2Proof/Machine/Step.lean ====
section
/-! DEFINITION. One step: the block answers the next operation presented (R7, R16, R60). -/

namespace Sys2Proof.Machine

/-- Take the next word off the bus, decode it under the state's `cfg`, and run it; with no word there, stay idle. -/
def step (s : State) : Host.Outcome State Fault Refusal :=
  match s.fetch with
  | none => s.idle
  | some (w, s') => exec (decode s.cfg w) s'

/-- `s` with the word numbered `w` presented next (entry 2). -/
def State.withFetchWord (s : State) (nbits w : Nat) : State := s.present (w % 2 ^ nbits)

end Sys2Proof.Machine
end

