-- ==== Sys2Proof/Safety.lean ====
section
/-! DEFINITION. The terms claims are stated in: the invariant of R36, the fold of R60, the premise `NoForeign` of R92,
and the histories that determine the registers (C4, R123). -/

namespace Sys2Proof.Machine

/-- The invariant of the machine: a well-formed launch (R11), canonical images, and I-1 to I-4 of R36. -/
structure State.Inv (s : State) : Prop where
  launchWf : s.launch.wf = true
  romCanonical : Mem.wf .rom s.launch.romLen s.launch.rom = true
  /-- I-4. -/
  ramCanonical : Mem.wf .ram s.launch.ramLen s.ram = true
  /-- I-1. -/
  romBankFits : s.romBank.toNat < 2 ^ s.cfg.romBankBits
  /-- I-2. -/
  romBankNonzero : s.cfg.zeroRemap = true → s.romBank ≠ 0#8
  /-- I-3. -/
  ramBankFits : s.ramBank.toNat < 2 ^ s.cfg.ramBankBits

/-- The same state under another configuration record, for claims that compare two. -/
def State.withCfg (s : State) (c : Cfg) : State := { s with launch := { s.launch with cfg := c } }

/-- The left fold of the operations over a state, stopping at the first refusal (R60, R177). -/
def foldWords : List TWord → State → Host.Outcome State Fault Refusal
  | [], s => .next s
  | w :: ws, s =>
    match exec (decode s.cfg w) s with
    | .next t => foldWords ws t
    | .fault r => .fault r
    | .refused r => .refused r

/-- The words `w` whose decoded operation is foreign (R92). -/
def isForeign (c : Cfg) (w : TWord) : Bool :=
  match decode c w with
  | .rdForeign _ => true
  | .wrForeign _ _ => true
  | _ => false

/-- The premise `NoForeign`: the dispatcher presents no foreign address (R92, R176). -/
def NoForeign (c : Cfg) (ws : List TWord) : Prop := ∀ w ∈ ws, isForeign c w = false

/-- No word of the sequence is reserved (R77): the premise under which a sequence is one of operations. -/
def AllOps (ws : List TWord) : Prop := ∀ w ∈ ws, parseOp w ≠ none

/-- `ramEnable` after a sequence of words: the last of `POWER` and `WR_RAMEN` in it decides (C4). -/
def enableHistory (c : Cfg) : List TWord → Bool → Bool
  | [], e => e
  | w :: ws, e =>
    enableHistory c ws
      (match decode c w with
       | .power => false
       | .wrRamen _ d => enables c d
       | _ => e)

/-- `romBank` after a sequence of words: the last of `POWER` and `WR_ROMSEL` in it decides (R123). -/
def romBankHistory (c : Cfg) : List TWord → Byte → Byte
  | [], v => v
  | w :: ws, v =>
    romBankHistory c ws
      (match decode c w with
       | .power => romBankPower c
       | .wrRomsel _ d => romBankValue c d
       | _ => v)

/-- `ramBank` after a sequence of words: the last of `POWER` and `WR_RAMSEL` in it decides (R123). -/
def ramBankHistory (c : Cfg) : List TWord → Byte → Byte
  | [], v => v
  | w :: ws, v =>
    ramBankHistory c ws
      (match decode c w with
       | .power => 0#8
       | .wrRamsel _ d => ramBankValue c d
       | _ => v)

/-- The byte the last store to RAM index `k` in a sequence of words stored; none if there was none (R61). A store is a
`WR_RAM` through the open gate (R130). -/
def lastStore (k : Nat) : List TWord → State → Option Byte
  | [], _ => none
  | w :: ws, s =>
    match exec (decode s.cfg w) s with
    | .next t =>
      match lastStore k ws t with
      | some d => some d
      | none =>
        match decode s.cfg w with
        | .wrRam a d => if s.ramSel = true ∧ s.ramIndex a = k then some d else none
        | _ => none
    | .fault _ => none
    | .refused _ => none

/-- A word that opens the RAM gate: a `WR_RAMEN` with an enabling byte (R101, R120). -/
def opensGate (c : Cfg) (w : TWord) : Bool :=
  match decode c w with
  | .wrRamen _ d => enables c d
  | _ => false

end Sys2Proof.Machine
end

