-- ==== Sys2Proof/Certificates/Slice0/Obligations.lean ====
section
/-! DEFINITION. The statements for the provers. Nothing is stated about a program or about what the free value is: every
statement holds for every `Config.foreignByte`. -/

open Sys2Proof Sys2Proof.Machine

/-! ### Words and the decoder -/

/-- Words written out bit by bit from R71 decode to the operation they spell under `CFG_REF`. The windows' addresses are
`CFG_REF`'s (D3, D4; entries 12 and 13). -/
def Obligations.SampleWordsDecode : Prop :=
  decode Cfg.ref 0b00_0011111111111111_00000000#26 = .rdRom0 0x3FFF#16 ∧
  decode Cfg.ref 0b00_0100000000000000_01010101#26 = .rdRomX 0x4000#16 ∧
  decode Cfg.ref 0b00_1010000000010000_00000000#26 = .rdRam 0xA010#16 ∧
  decode Cfg.ref 0b00_1111111111111111_00000000#26 = .rdForeign 0xFFFF#16 ∧
  decode Cfg.ref 0b01_0000000000000000_00001010#26 = .wrRamen 0x0000#16 0x0A#8 ∧
  decode Cfg.ref 0b01_0010000000000000_00000010#26 = .wrRomsel 0x2000#16 0x02#8 ∧
  decode Cfg.ref 0b01_0100000000000000_00000011#26 = .wrRamsel 0x4000#16 0x03#8 ∧
  decode Cfg.ref 0b01_1010000000010000_01000010#26 = .wrRam 0xA010#16 0x42#8 ∧
  decode Cfg.ref 0b01_0110000000000000_00000001#26 = .wrIgn 0x6000#16 0x01#8 ∧
  decode Cfg.ref 0b01_1000000000000000_00010010#26 = .wrForeign 0x8000#16 0x12#8 ∧
  decode Cfg.ref 0b10_1010101111001101_11101111#26 = .power ∧
  decode Cfg.ref 0b11_0000000000000000_00000000#26 = .reserved

/-- The 14 rows of the table of R75, each by its match and mask, for every word. The register windows of `CFG_REF` are
the spec's own choice (D3; entry 12). -/
def Obligations.ReferenceDecodeTable : Prop :=
  ∀ w : TWord,
    (w &&& 0x3C00000#26 = 0x0000000#26 → decode Cfg.ref w = .rdRom0 (fieldAddr w)) ∧
    (w &&& 0x3C00000#26 = 0x0400000#26 → decode Cfg.ref w = .rdRomX (fieldAddr w)) ∧
    (w &&& 0x3E00000#26 = 0x0800000#26 → decode Cfg.ref w = .rdForeign (fieldAddr w)) ∧
    (w &&& 0x3E00000#26 = 0x0A00000#26 → decode Cfg.ref w = .rdRam (fieldAddr w)) ∧
    (w &&& 0x3C00000#26 = 0x0C00000#26 → decode Cfg.ref w = .rdForeign (fieldAddr w)) ∧
    (w &&& 0x3E00000#26 = 0x1000000#26 → decode Cfg.ref w = .wrRamen (fieldAddr w) (fieldData w)) ∧
    (w &&& 0x3E00000#26 = 0x1200000#26 → decode Cfg.ref w = .wrRomsel (fieldAddr w) (fieldData w)) ∧
    (w &&& 0x3E00000#26 = 0x1400000#26 → decode Cfg.ref w = .wrRamsel (fieldAddr w) (fieldData w)) ∧
    (w &&& 0x3E00000#26 = 0x1600000#26 → decode Cfg.ref w = .wrIgn (fieldAddr w) (fieldData w)) ∧
    (w &&& 0x3E00000#26 = 0x1800000#26 → decode Cfg.ref w = .wrForeign (fieldAddr w) (fieldData w)) ∧
    (w &&& 0x3E00000#26 = 0x1A00000#26 → decode Cfg.ref w = .wrRam (fieldAddr w) (fieldData w)) ∧
    (w &&& 0x3C00000#26 = 0x1C00000#26 → decode Cfg.ref w = .wrForeign (fieldAddr w) (fieldData w)) ∧
    (w &&& 0x3000000#26 = 0x2000000#26 → decode Cfg.ref w = .power) ∧
    (w &&& 0x3000000#26 = 0x3000000#26 → decode Cfg.ref w = .reserved)

/-- The decode map of R74: under a well-formed `cfg`, an operation decodes to `i` exactly when `i` stands for that operation
and its condition holds; so exactly one does. The spec's own decisions: a register window over ROM wins for writes (D16;
entry 22), and a write over ROM with no register is `WR_IGN` (D14; entry 24). -/
def Obligations.DecodeMapIsExact : Prop :=
  ∀ c : Cfg, c.wf = true → ∀ op : Op,
    (∀ i : Instr, decodeOp c op = i ↔ i.op = some op ∧ i.wf c = true) ∧
    ∃! i : Instr, i.op = some op ∧ i.wf c = true

/-- Decoding the word of a well-formed decoded operation gives it back, under every well-formed `cfg` (R71, R72, R74).
The word is the spec's own device (D17). -/
def Obligations.EncodeDecodeRoundTrip : Prop :=
  ∀ (c : Cfg) (i : Instr), c.wf = true → i.wf c = true → decode c (encode i) = i

/-- R72: decoding then encoding a word gives its canonical word, which decodes to the same operation. The canonical word
of kind 11 is the model's reading (entry 20). -/
def Obligations.DecodeEncodeCanonical : Prop :=
  ∀ (c : Cfg) (w : TWord),
    encode (decode c w) = canonicalWord w ∧ decode c (canonicalWord w) = decode c w

/-- R80: each pseudo-operation is one `WR` that decodes to the register write it names; `RAMOFF` disables, and `RAMON`
enables whenever some byte does (WF6). The notation is the spec's own (D18), and so is the form of the enable test (D10;
entry 23). -/
def Obligations.PseudoOperationsReachTheirRegister : Prop :=
  ∀ c : Cfg, c.wf = true →
    ((Pseudo.ramOn.expand c).map (decodeOp c) = some (.wrRamen c.ramEnBase c.enValue) ∧
      (c.wf6 = true → enables c c.enValue = true)) ∧
    (c.enValue ≠ 0#8 →
      (Pseudo.ramOff.expand c).map (decodeOp c) = some (.wrRamen c.ramEnBase 0#8) ∧ enables c 0#8 = false) ∧
    (∀ n, ((Pseudo.romBank n).expand c).map (decodeOp c) = some (.wrRomsel c.romSelBase n)) ∧
    (∀ n, ((Pseudo.ramBank n).expand c).map (decodeOp c) = some (.wrRamsel c.ramSelBase n))

/-! ### The step -/

/-- A step takes the next word off the bus and runs the operation it decodes to. The bus is the model's own field (entry 2). -/
def Obligations.StepRunsDecodedOperation : Prop :=
  ∀ (s : State) (w : TWord) (ws : List TWord), s.bus = w :: ws →
    step s = exec (decode s.cfg w) (s.setBus ws)

/-- A word placed on the bus is the one the very next step runs (entry 2). -/
def Obligations.PresentedWordRunsNext : Prop :=
  ∀ (s : State) (n : Nat), n < 2 ^ 26 →
    step (s.withFetchWord 32 n) = exec (decode s.cfg (BitVec.ofNat 26 n)) s

/-- R7 read for a step with no operation presented: nothing changes (entry 18, the model's choice). -/
def Obligations.IdleStepKeepsState : Prop :=
  ∀ s : State, s.launch.wf = true → s.bus = [] → step s = .next s

/-- No step faults (the block raises nothing, so `Fault` has no constructor), and under a well-formed launch every
presented operation completes. The model's choices: the bus (entry 2), and that a foreign read and a foreign write
continue where the spec's own model refuses them (entries 6 and 8; D15, U1, U2). -/
def Obligations.OperationsNeverFault : Prop :=
  (∀ (s : State) (r : Fault), step s ≠ .fault r) ∧
  ∀ (s : State) (w : TWord) (ws : List TWord), s.launch.wf = true → s.bus = w :: ws → parseOp w ≠ none →
    ∃ t, step s = .next t ∧ t.bus = ws

/-- A word of kind 11 spells no operation and is refused by name (R77, U3; entry 9). -/
def Obligations.ReservedWordIsRefused : Prop :=
  (∀ s : State, exec .reserved s = .refused .reservedWord) ∧
  ∀ (s : State) (w : TWord) (ws : List TWord), fieldKind w = 3#2 → s.bus = w :: ws →
    step s = .refused .reservedWord

/-- An ill-formed launch is given no meaning: every operation, and the model's own idle step (entry 18), is refused (R11, U4,
D12, D16; entry 10). -/
def Obligations.IllFormedLaunchIsRefused : Prop :=
  ∀ s : State, s.launch.wf = false →
    (∀ i : Instr, i ≠ .reserved → exec i s = .refused .illFormedLaunch) ∧
    (s.bus = [] → step s = .refused .illFormedLaunch)

/-- Running a sequence of presented operations is the left fold of the operations over the state, whatever waits behind
them: R60's order. The model's choices: the bus the operations wait on (entry 2), and that a refusal ends both the run and
the fold (entry 25). -/
def Obligations.RunIsTheFoldOfOperations : Prop :=
  ∀ (ws rest : List TWord) (s : State),
    core.run ws.length (s.setBus (ws ++ rest)) = foldWords ws (s.setBus rest)

/-- Under a well-formed launch a run over any sequence of operations completes, and presents nothing of its own. `AllOps`
shuts out reserved words only: that foreign operations complete is the model's choice (entries 6 and 8; U1, U2), as is the
bus (entry 2). -/
def Obligations.RunOfOperationsCompletes : Prop :=
  ∀ (ws : List TWord) (s : State), s.launch.wf = true → AllOps ws →
    ∃ t, core.run ws.length (s.setBus ws) = .next t ∧ t.bus = [] ∧ t.launch = s.launch

/-! ### Reads -/

/-- `RD_ROM0` returns `ROM[a - rom0Base]` and changes nothing, in both modes (R110). The spec's own decisions: the offset is
taken from the window's base, for every base (C5 and D13; entry 22), and in `ROM_HIGH` the fixed window still shows bank 0
(D9; entry 16). -/
def Obligations.RdRom0Returns : Prop :=
  ∀ (s : State) (a : Addr), s.launch.wf = true → s.cfg.inRom0 a = true →
    exec (.rdRom0 a) s = .next { s with out := some (s.romByte (a.toNat - s.cfg.rom0Base.toNat)) }

/-- The fixed window shows bank 0 whatever `romBank`, `ramBank`, `ramEnable` and `ramSelMode` are (R41). The spec's own
decisions: it does so in `ROM_HIGH` too (D9; entry 16), and the form of the index in that bank (C5 and D13; entry 22). -/
def Obligations.FixedWindowIsNeverSwitched : Prop :=
  ∀ (s t : State) (a : Addr) (e : Bool) (r b : Byte) (m : RamSelMode), exec (.rdRom0 a) s = .next t →
    s.romIndex0 a < s.cfg.romBankSize ∧ t.out = some (s.romByte (s.romIndex0 a)) ∧
    ∃ t', exec (.rdRom0 a) ((((s.setRamEnable e).setRomBank r).setRamBank b).withCfg { s.cfg with ramSelMode := m }) =
        .next t' ∧ t'.out = t.out

/-- `RD_ROMX` in `RAM_BANK` mode: the byte at offset `a - romXBase` of bank `romBank mod romBanks`; nothing changes. -/
def Obligations.RdRomXReturnsSelectedBank : Prop :=
  ∀ (s : State) (a : Addr), s.launch.wf = true → s.cfg.inRomX a = true → s.cfg.ramSelMode = .ramBank →
    exec (.rdRomX a) s = .next (s.setOut (some (s.romByte
      (s.romBank.toNat % s.launch.romBanks * s.cfg.romBankSize + (a.toNat - s.cfg.romXBase.toNat)))))

/-- `RD_ROMX` in `ROM_HIGH` mode: `ramBank` supplies the bits directly above `romBank`. The placement is the spec's own
reading (D9; entry 16). -/
def Obligations.RdRomXReturnsHighBank : Prop :=
  ∀ (s : State) (a : Addr), s.launch.wf = true → s.cfg.inRomX a = true → s.cfg.ramSelMode = .romHigh →
    exec (.rdRomX a) s = .next (s.setOut (some (s.romByte
      ((s.ramBank.toNat * 2 ^ s.cfg.romBankBits + s.romBank.toNat) % s.launch.romBanks * s.cfg.romBankSize +
        (a.toNat - s.cfg.romXBase.toNat)))))

/-- `RD_RAM` in full, both modes: through the gate the byte of the selected RAM bank, else `openBus`; nothing changes.
That `ROM_HIGH` shows RAM bank 0 is the spec's own reading (D9; entry 16). -/
def Obligations.RdRamReturns : Prop :=
  ∀ (s : State) (a : Addr), s.launch.wf = true → s.cfg.inRam a = true →
    exec (.rdRam a) s = .next (s.setOut (some
      (if s.ramEnable = true ∧ 0 < s.launch.ramBanks then
        s.ramByte ((match s.cfg.ramSelMode with
          | .ramBank => s.ramBank.toNat % s.launch.ramBanks
          | .romHigh => 0) * s.cfg.ramBankSize + (a.toNat - s.cfg.ramBase.toNat))
      else s.cfg.openBus)))

/-- The RAM gate (R51): a read or write of the RAM window reaches RAM exactly when RAM is enabled and present; a gated read
returns the open-bus value and a gated write is discarded, with no fault. That `ramIndex` lies in RAM bank 0 in `ROM_HIGH`
is the spec's own reading (D9; entry 16). -/
def Obligations.RamGateGuardsTheWindow : Prop :=
  ∀ (s : State) (a : Addr) (d : Byte), s.launch.wf = true → s.cfg.inRam a = true →
    if s.ramEnable = true ∧ 0 < s.launch.ramBanks then
      exec (.rdRam a) s = .next { s with out := some (s.ramByte (s.ramIndex a)) } ∧
      exec (.wrRam a d) s = .next { s with ram := Mem.write .ram s.ram (s.ramIndex a) d, out := none }
    else
      exec (.rdRam a) s = .next { s with out := some s.cfg.openBus } ∧
      exec (.wrRam a d) s = .next { s with out := none }

/-- R52: a gated-off read of the RAM window returns `openBus` whatever the address, the bank registers and the RAM hold;
and no operation but `RD_RAM` ever depends on `openBus`. -/
def Obligations.OpenBusOnlyInTheRamWindow : Prop :=
  (∀ (s : State) (a : Addr) (r b : Byte) (m : List Host.Cell),
    s.launch.wf = true → s.cfg.inRam a = true → s.ramSel = false →
    exec (.rdRam a) { s with romBank := r, ramBank := b, ram := m } =
      .next { s with romBank := r, ramBank := b, ram := m, out := some s.cfg.openBus }) ∧
  ∀ (i : Instr) (s t : State) (v : Byte), (∀ a, i ≠ .rdRam a) → exec i s = .next t →
    exec i (s.withCfg { s.cfg with openBus := v }) = .next (t.withCfg { s.cfg with openBus := v })

/-- A foreign read that continues: state unchanged, and the byte is the next free draw, any value (R93 allows it; the
model's choice, entries 6 and 7). -/
def Obligations.RdForeignDrawsFreely : Prop :=
  ∀ (s : State) (a : Addr), s.launch.wf = true → s.cfg.inStorage a = false →
    exec (.rdForeign a) s =
      .next { s with out := some (Config.foreignByte s.draws), draws := s.draws + 1 }

/-- A defined read is a pure function of the launch, the registers and the RAM: two states that agree on those return
the same byte, and neither changes (R114, an inference the spec marks as derived). -/
def Obligations.DefinedReadsArePure : Prop :=
  ∀ (i : Instr) (s s' t t' : State) (a : Addr), (i = .rdRom0 a ∨ i = .rdRomX a ∨ i = .rdRam a) →
    s.launch = s'.launch → s.snapshot = s'.snapshot → exec i s = .next t → exec i s' = .next t' →
    t.out = t'.out ∧ t.snapshot = s.snapshot ∧ t'.snapshot = s'.snapshot

/-- Aliasing (R50, R98): register values that agree modulo the bank count select the same bank, so the windows show the
same byte. -/
def Obligations.BankValuesAlias : Prop :=
  ∀ (s t : State) (a : Addr) (v : Byte), s.cfg.ramSelMode = .ramBank →
    (v.toNat % s.launch.romBanks = s.romBank.toNat % s.launch.romBanks →
      exec (.rdRomX a) s = .next t → exec (.rdRomX a) (s.setRomBank v) = .next (t.setRomBank v)) ∧
    (v.toNat % s.launch.ramBanks = s.ramBank.toNat % s.launch.ramBanks →
      exec (.rdRam a) s = .next t → exec (.rdRam a) (s.setRamBank v) = .next (t.setRamBank v))

/-- No access is out of bounds (R50, R100): the multiplexer's `romAddr` and `ramAddr` are indices of their image. It rests on
the spec's own decisions D5, D12 and D13 (entry 22), and in `ROM_HIGH` on D9 (entry 16). -/
def Obligations.IndicesStayInBounds : Prop :=
  ∀ (s : State) (i : Instr) (n : Nat), s.launch.wf = true → i.wf s.cfg = true →
    (s.romAddr i = some n → n < s.launch.romLen) ∧ (s.ramAddr i = some n → n < s.launch.ramLen)

/-- The multiplexer's outputs (R53, the spec's own device, D1): a defined read delivers `dout`, and a byte of RAM changes only
where `ramWe` and `ramAddr` say. The indices follow D9 (entry 16) and D13 (entry 22). -/
def Obligations.MultiplexerOutputsAreUsed : Prop :=
  ∀ (i : Instr) (s t : State), exec i s = .next t →
    (∀ b, s.dout i = some b → t.out = some b) ∧
    ∀ k, t.ramByte k ≠ s.ramByte k → s.ramWe i = true ∧ s.ramAddr i = some k

/-! ### Writes -/

/-- The enable predicate of R101; with `CFG_REF` it is "low nibble 0xA", and 240 of the 256 bytes disable. The form with a
mask and a value is the spec's own decision (D10; entry 23). -/
def Obligations.EnablePredicateIsTheLowNibble : Prop :=
  (∀ (c : Cfg) (d : Byte), enables c d = true ↔ d &&& c.enMask = c.enValue) ∧
  (∀ d : Byte, enables Cfg.ref d = true ↔ d.extractLsb' 0 4 = 0xA#4) ∧
  ((List.range 256).filter (fun n => !enables Cfg.ref (BitVec.ofNat 8 n))).length = 240

/-- R96: masking is the AND with `2^n - 1`, and that is reduction modulo `2^n`. -/
def Obligations.MaskIsReduction : Prop :=
  ∀ (n : Nat) (d : Byte), n ≤ 8 →
    (mask n d).toNat = d.toNat &&& (2 ^ n - 1) ∧ (mask n d).toNat = d.toNat % 2 ^ n ∧ mask 0 d = 0#8 ∧ mask 8 d = d

/-- `WR_RAMEN` sets the latch when `(d AND enMask) = enValue`, clears it otherwise, and changes nothing else (R120). The form
of the test is the spec's own decision (D10; entry 23). -/
def Obligations.WrRamenLoadsTheLatch : Prop :=
  ∀ (s : State) (a : Addr) (d : Byte), s.launch.wf = true → s.cfg.inRamEn a = true →
    exec (.wrRamen a d) s =
      .next { s with ramEnable := decide (d &&& s.cfg.enMask = s.cfg.enValue), out := none }

/-- `WR_ROMSEL` stores the masked byte, 0 remapped to 1 under `zeroRemap`, not reduced modulo the bank count; nothing
else changes. That the zero test sees the masked value is the spec's own decision (D7, D8; entries 14 and 15). -/
def Obligations.WrRomselLoadsTheBank : Prop :=
  ∀ (s : State) (a : Addr) (d : Byte), s.launch.wf = true → s.cfg.inRomSel a = true →
    ∃ v : Byte, v.toNat = (if s.cfg.zeroRemap = true ∧ d.toNat % 2 ^ s.cfg.romBankBits = 0 then 1
        else d.toNat % 2 ^ s.cfg.romBankBits) ∧
      exec (.wrRomsel a d) s = .next { s with romBank := v, out := none }

/-- `WR_RAMSEL` stores the masked byte, in both modes, with no remap; nothing else changes (R122). The spec's own decisions: the
stored value is not reduced modulo the bank count (D8; entry 15), and the write is the same in both modes and switches none
(C2 and D9; entry 16). That it takes effect with RAM disabled or absent, the spec marks as derived. -/
def Obligations.WrRamselLoadsTheBank : Prop :=
  ∀ (s : State) (a : Addr) (d : Byte), s.launch.wf = true → s.cfg.inRamSel a = true →
    ∃ v : Byte, v.toNat = d.toNat % 2 ^ s.cfg.ramBankBits ∧
      exec (.wrRamsel a d) s = .next { s with ramBank := v, out := none }

/-- The address bits inside a register window are not used: any two addresses of a window give the same write (R32). -/
def Obligations.RegisterWindowOffsetIsIgnored : Prop :=
  ∀ (s : State) (a a' : Addr) (d : Byte),
    (s.cfg.inRamEn a = true → s.cfg.inRamEn a' = true → exec (.wrRamen a d) s = exec (.wrRamen a' d) s) ∧
    (s.cfg.inRomSel a = true → s.cfg.inRomSel a' = true → exec (.wrRomsel a d) s = exec (.wrRomsel a' d) s) ∧
    (s.cfg.inRamSel a = true → s.cfg.inRamSel a' = true → exec (.wrRamsel a d) s = exec (.wrRamsel a' d) s)

/-- `WR_RAM` through the open gate changes exactly the byte at `ramIndex a` to `d`; through the closed gate it is discarded; no
register changes (R130). That `ramIndex` lies in RAM bank 0 in `ROM_HIGH` is the spec's own reading (D9; entry 16). -/
def Obligations.WrRamStoresOneByte : Prop :=
  ∀ (s : State) (a : Addr) (d : Byte), s.launch.wf = true → s.cfg.inRam a = true →
    Mem.wf .ram s.launch.ramLen s.ram = true →
    ∃ t, exec (.wrRam a d) s = .next t ∧ t.launch = s.launch ∧ t.ramEnable = s.ramEnable ∧
      t.romBank = s.romBank ∧ t.ramBank = s.ramBank ∧ t.out = none ∧
      ∀ k, t.ramByte k =
        if s.ramEnable = true ∧ 0 < s.launch.ramBanks ∧ k = s.ramIndex a then d else s.ramByte k

/-- A write into a ROM window that no register window covers does nothing. That it is defined at all is the spec's own
decision (D14; entry 24). -/
def Obligations.WrIgnDoesNothing : Prop :=
  ∀ (s : State) (a : Addr) (d : Byte), s.launch.wf = true →
    (s.cfg.inRom0 a = true ∨ s.cfg.inRomX a = true) → s.cfg.inRegister a = false → s.cfg.inRam a = false →
    exec (.wrIgn a d) s = .next { s with out := none }

/-- A foreign write that continues leaves the state unchanged (R93 allows it; the model's choice, entry 8). -/
def Obligations.WrForeignDoesNothing : Prop :=
  ∀ (s : State) (a : Addr) (d : Byte), s.launch.wf = true → s.cfg.inStorage a = false →
    s.cfg.inRegister a = false → exec (.wrForeign a d) s = .next { s with out := none }

/-- A foreign operation does not change the state (R93's own words). The model's choices: that it continues (entries 6
and 8), that the byte a foreign read returns is `Config.foreignByte` of the draw counter, and that the counter then
advances (entries 6 and 7). -/
def Obligations.ForeignOperationsKeepTheState : Prop :=
  ∀ (s t : State) (a : Addr) (d : Byte),
    (exec (.rdForeign a) s = .next t →
      t.snapshot = s.snapshot ∧ t.launch = s.launch ∧ t.out = some (Config.foreignByte s.draws) ∧
        t.draws = s.draws + 1) ∧
    (exec (.wrForeign a d) s = .next t → t.snapshot = s.snapshot ∧ t.launch = s.launch ∧ t.out = none)

/-- Writing a byte to an enabled RAM location and reading it back while still enabled returns it (the source's S6). -/
def Obligations.RamRoundTrip : Prop :=
  ∀ (s : State) (a : Addr) (d : Byte), s.launch.wf = true → s.cfg.inRam a = true →
    Mem.wf .ram s.launch.ramLen s.ram = true → s.ramEnable = true → 0 < s.launch.ramBanks →
    ∃ t u, exec (.wrRam a d) s = .next t ∧ exec (.rdRam a) t = .next u ∧ u.out = some d

/-- R61: after any sequence of operations a byte of RAM is the byte of the last store to its index, or the initial byte
if there was none, and an enabled read of that index returns it. -/
def Obligations.RamReadsTheLastStore : Prop :=
  ∀ (ws : List TWord) (s t : State) (k : Nat), Mem.wf .ram s.launch.ramLen s.ram = true →
    foldWords ws s = .next t →
    t.ramByte k = (lastStore k ws s).getD (s.ramByte k) ∧
    ∀ (a : Addr) (u : State), t.ramSel = true → t.ramIndex a = k → exec (.rdRam a) t = .next u →
      u.out = some ((lastStore k ws s).getD (s.ramByte k))

/-! ### POWER and reset -/

/-- `POWER` clears the latch, puts `romBank` at the remapped 0 and `ramBank` at 0, and changes nothing else (R140). The value
of `romBank` is the spec's own reading (C1 and D7; entry 14). -/
def Obligations.PowerResetsTheRegisters : Prop :=
  ∀ s : State, s.launch.wf = true →
    exec .power s = .next { s with
      ramEnable := false, romBank := if s.cfg.zeroRemap = true then 1#8 else 0#8, ramBank := 0#8, out := none }

/-- R171: the state after `POWER` depends on the state before it through `RAM` alone, and `POWER; POWER` is `POWER`. -/
def Obligations.PowerForgetsTheRegisters : Prop :=
  ∀ s s' : State, s.launch.wf = true → s.launch = s'.launch → s.ram = s'.ram →
    ∃ t t', exec .power s = .next t ∧ exec .power s' = .next t' ∧ t.snapshot = t'.snapshot ∧
      t.ram = s.ram ∧ exec .power t = .next t

/-- Construction leaves the state that `POWER` leaves, with `RAM` the launch parameter (R142, R170). The value of `romBank` is
the spec's own reading (C1 and D7; entry 14), and so is construction itself (D24; entry 14). -/
def Obligations.ConstructionIsThePowerState : Prop :=
  ∀ (l : Launch) (m : List Host.Cell), l.wf = true →
    (State.construct l m).launch = l ∧ (State.construct l m).ramEnable = false ∧
    (State.construct l m).romBank = (if l.cfg.zeroRemap = true then 1#8 else 0#8) ∧
    (State.construct l m).ramBank = 0#8 ∧ (State.construct l m).ram = m ∧
    exec .power (State.construct l m) = .next (State.construct l m)

/-- The reset value of `romBank` is what a `WR_ROMSEL` of 0 stores (R35; the reading of C1 and D7; entry 14). -/
def Obligations.ResetBankIsTheRemappedZero : Prop :=
  ∀ (l : Launch) (m : List Host.Cell) (a : Addr), l.wf = true → l.cfg.inRomSel a = true →
    exec (.wrRomsel a 0#8) (State.construct l m) = .next (State.construct l m)

/-- Bytes in RAM before a `POWER` are read back after it, once RAM is enabled and the bank selected again (R141). -/
def Obligations.RamSurvivesPower : Prop :=
  ∀ (s : State) (a e b : Addr) (d v : Byte), s.launch.wf = true → 0 < s.launch.ramBanks →
    s.cfg.inRam a = true → s.cfg.inRamEn e = true → s.cfg.inRamSel b = true → enables s.cfg d = true →
    ∃ t₁ t₂ t₃ u, exec .power s = .next t₁ ∧ exec (.wrRamen e d) t₁ = .next t₂ ∧
      exec (.wrRamsel b v) t₂ = .next t₃ ∧ exec (.rdRam a) t₃ = .next u ∧
      u.out = some (s.ramByte (t₃.ramIndex a))

/-! ### The whole machine -/

/-- The invariant I-1 to I-4 of R36, with a well-formed launch and canonical images, is kept by every step. That 0 is never
stored under `zeroRemap` rests on D7 (entry 14), that masked values are stored on D8 (entry 15); the width as an invariant is
the model's choice (entry 17). -/
def Obligations.StepKeepsTheInvariant : Prop :=
  ∀ s t : State, s.Inv → step s = .next t → t.Inv

/-- Construction meets the invariant, for every well-formed launch with canonical images (R36). The value of `romBank` is the
spec's own reading (C1, D7, D24; entry 14). -/
def Obligations.ConstructionMeetsTheInvariant : Prop :=
  ∀ (l : Launch) (m : List Host.Cell), l.wf = true → Mem.wf .rom l.romLen l.rom = true →
    Mem.wf .ram l.ramLen m = true → (State.construct l m).Inv

/-- The reset state meets the invariant. Its launch and its images are the model's choice (entries 4 and 5). -/
def Obligations.ResetMeetsTheInvariant : Prop := State.reset.Inv

/-- R29: no operation and no step changes `cfg`; nor the ROM or the length of either image. -/
def Obligations.LaunchNeverChanges : Prop :=
  (∀ (i : Instr) (s t : State), exec i s = .next t → t.launch = s.launch) ∧
  ∀ s t : State, step s = .next t → t.launch = s.launch

/-- `ramEnable` is set or cleared by `WR_RAMEN`, cleared by `POWER`, and changed by nothing else (R31). The form of the enable
test is the spec's own decision (D10; entry 23). -/
def Obligations.RamEnableIsWrittenByTwoOperations : Prop :=
  ∀ (i : Instr) (s t : State), exec i s = .next t →
    t.ramEnable = (match i with
      | .power => false
      | .wrRamen _ d => decide (d &&& s.cfg.enMask = s.cfg.enValue)
      | _ => s.ramEnable)

/-- `romBank` and `ramBank` are written by their own register window and `POWER` only (R22, R23). The stored values are those of
D7 (entry 14) and D8 (entry 15). -/
def Obligations.BankRegistersAreWrittenByTwoOperations : Prop :=
  ∀ (i : Instr) (s t : State), exec i s = .next t →
    t.romBank = (match i with
      | .power => romBankPower s.cfg
      | .wrRomsel _ d => romBankValue s.cfg d
      | _ => s.romBank) ∧
    t.ramBank = (match i with
      | .power => 0#8
      | .wrRamsel _ d => ramBankValue s.cfg d
      | _ => s.ramBank)

/-- Each register write changes its own register only and never RAM; a RAM write changes at most the byte at `ramIndex a` and
never a register; only `POWER` changes more than one register (R26). That `ramIndex` lies in RAM bank 0 in `ROM_HIGH` is the
spec's own reading (D9; entry 16). -/
def Obligations.RegistersAreIndependent : Prop :=
  ∀ (i : Instr) (s t : State), exec i s = .next t →
    (∀ a d, i = .wrRamen a d → t.romBank = s.romBank ∧ t.ramBank = s.ramBank ∧ t.ram = s.ram) ∧
    (∀ a d, i = .wrRomsel a d → t.ramEnable = s.ramEnable ∧ t.ramBank = s.ramBank ∧ t.ram = s.ram) ∧
    (∀ a d, i = .wrRamsel a d → t.ramEnable = s.ramEnable ∧ t.romBank = s.romBank ∧ t.ram = s.ram) ∧
    (∀ a d, i = .wrRam a d → t.ramEnable = s.ramEnable ∧ t.romBank = s.romBank ∧ t.ramBank = s.ramBank ∧
      ∀ k, k ≠ s.ramIndex a → t.ramByte k = s.ramByte k) ∧
    (i ≠ .power → (t.romBank = s.romBank ∧ t.ramBank = s.ramBank) ∨
      (t.ramEnable = s.ramEnable ∧ t.ramBank = s.ramBank) ∨
      (t.ramEnable = s.ramEnable ∧ t.romBank = s.romBank))

/-- C4: after any sequence of operations, `ramEnable` is what the last of `POWER` and `WR_RAMEN` in it gave. The form of the
enable test is the spec's own decision (D10; entry 23). -/
def Obligations.EnableLatchIsItsHistory : Prop :=
  ∀ (ws : List TWord) (s t : State), foldWords ws s = .next t →
    t.ramEnable = enableHistory s.cfg ws s.ramEnable

/-- After any sequence of operations each bank register holds what the last write to its window, or the last `POWER`, gave
(R123, an inference the spec marks as derived). The values are those of D7 (entry 14) and D8 (entry 15). -/
def Obligations.BankRegistersAreTheirHistory : Prop :=
  ∀ (ws : List TWord) (s t : State), foldWords ws s = .next t →
    t.romBank = romBankHistory s.cfg ws s.romBank ∧ t.ramBank = ramBankHistory s.cfg ws s.ramBank

/-- While RAM is disabled and no word opens the gate, no sequence of operations changes a byte of RAM, and RAM stays
disabled (R51, R187). -/
def Obligations.DisabledRamIsUntouched : Prop :=
  ∀ (ws : List TWord) (s t : State), s.ramEnable = false → (∀ w ∈ ws, opensGate s.cfg w = false) →
    foldWords ws s = .next t → t.ramEnable = false ∧ t.ram = s.ram

/-- Under the premise `NoForeign` no free value is drawn, so the registers, the RAM and the bytes returned do not depend
on any (R92, R176). -/
def Obligations.NoForeignDrawsNothing : Prop :=
  ∀ (ws : List TWord) (s s' t t' : State), NoForeign s.cfg ws → s.launch = s'.launch →
    s.snapshot = s'.snapshot → s.out = s'.out → foldWords ws s = .next t → foldWords ws s' = .next t' →
    t.draws = s.draws ∧ t.snapshot = t'.snapshot ∧ t.out = t'.out

/-! ### Frames -/

/-- The frame of the defined reads: no register, no byte of either image, and nothing on the bus changes. -/
def Obligations.FrameOfDefinedReads : Prop :=
  ∀ (i : Instr) (s t : State) (a : Addr), (i = .rdRom0 a ∨ i = .rdRomX a ∨ i = .rdRam a) → exec i s = .next t →
    t.ramEnable = s.ramEnable ∧ t.romBank = s.romBank ∧ t.ramBank = s.ramBank ∧
    (∀ k, t.ramByte k = s.ramByte k) ∧ (∀ k, t.romByte k = s.romByte k) ∧
    t.launch = s.launch ∧ t.bus = s.bus ∧ t.draws = s.draws

/-- The frame of the three register writes: each leaves the other two registers and every byte of both images. -/
def Obligations.FrameOfRegisterWrites : Prop :=
  ∀ (i : Instr) (s t : State) (a : Addr) (d : Byte),
    (i = .wrRamen a d ∨ i = .wrRomsel a d ∨ i = .wrRamsel a d) → exec i s = .next t →
    (i = .wrRamen a d ∨ t.ramEnable = s.ramEnable) ∧ (i = .wrRomsel a d ∨ t.romBank = s.romBank) ∧
    (i = .wrRamsel a d ∨ t.ramBank = s.ramBank) ∧
    (∀ k, t.ramByte k = s.ramByte k) ∧ (∀ k, t.romByte k = s.romByte k) ∧
    t.launch = s.launch ∧ t.bus = s.bus ∧ t.draws = s.draws

/-- The frame of `WR_RAM`: no register changes, and no byte of RAM but the one at the index the store goes to, or none at all
when the gate is closed. That the index lies in RAM bank 0 in `ROM_HIGH` is the spec's own reading (D9; entry 16). -/
def Obligations.FrameOfWrRam : Prop :=
  ∀ (s t : State) (a : Addr) (d : Byte), exec (.wrRam a d) s = .next t →
    t.ramEnable = s.ramEnable ∧ t.romBank = s.romBank ∧ t.ramBank = s.ramBank ∧
    (∀ j, s.ramAddr (.wrRam a d) = some j → ∀ k, k ≠ j → t.ramByte k = s.ramByte k) ∧
    (s.ramAddr (.wrRam a d) = none → ∀ k, t.ramByte k = s.ramByte k) ∧
    (∀ k, t.romByte k = s.romByte k) ∧ t.launch = s.launch ∧ t.bus = s.bus ∧ t.draws = s.draws

/-- The frame of the ignored write (D14; entry 24) and of the foreign operations, which continue by the model's choice (entries
6, 7 and 8): no register and no byte of either image changes. -/
def Obligations.FrameOfIgnoredAndForeign : Prop :=
  ∀ (i : Instr) (s t : State) (a : Addr) (d : Byte),
    (i = .wrIgn a d ∨ i = .wrForeign a d ∨ i = .rdForeign a) → exec i s = .next t →
    t.ramEnable = s.ramEnable ∧ t.romBank = s.romBank ∧ t.ramBank = s.ramBank ∧
    (∀ k, t.ramByte k = s.ramByte k) ∧ (∀ k, t.romByte k = s.romByte k) ∧
    t.launch = s.launch ∧ t.bus = s.bus ∧ (i = .rdForeign a ∨ t.draws = s.draws)

/-- The frame of `POWER`: only the three registers change (R141). -/
def Obligations.FrameOfPower : Prop :=
  ∀ s t : State, exec .power s = .next t →
    (∀ k, t.ramByte k = s.ramByte k) ∧ (∀ k, t.romByte k = s.romByte k) ∧
    t.launch = s.launch ∧ t.bus = s.bus ∧ t.draws = s.draws
end

