-- ==== Sys2Proof/Laws/Decode.lean ====
section
/-! SUPPORT. The fields of a packed word, and the operation a packed word spells. -/

namespace Sys2Proof

/-- The bits of a packed word, field by field. -/
theorem packWord_getLsbD (k : BitVec 2) (a : Addr) (d : Byte) (i : Nat) :
    (packWord k a d).getLsbD i =
      if i < 8 then d.getLsbD i else if i - 8 < 16 then a.getLsbD (i - 8) else k.getLsbD (i - 8 - 16) := by
  show BitVec.getLsbD ((k ++ a) ++ d : BitVec (2 + 16 + 8)) i = _
  rw [BitVec.getLsbD_append, BitVec.getLsbD_append]

@[simp] theorem fieldKind_packWord (k : BitVec 2) (a : Addr) (d : Byte) :
    fieldKind (packWord k a d) = k := by
  ext i hi
  have h₁ : ¬(24 + i < 8) := by omega
  have h₂ : ¬(24 + i - 8 < 16) := by omega
  rw [fieldKind, BitVec.getElem_extractLsb', packWord_getLsbD, if_neg h₁, if_neg h₂,
    show 24 + i - 8 - 16 = i by omega, BitVec.getLsbD_eq_getElem hi]

@[simp] theorem fieldAddr_packWord (k : BitVec 2) (a : Addr) (d : Byte) :
    fieldAddr (packWord k a d) = a := by
  ext i hi
  have h₁ : ¬(8 + i < 8) := by omega
  have h₂ : 8 + i - 8 < 16 := by omega
  rw [fieldAddr, BitVec.getElem_extractLsb', packWord_getLsbD, if_neg h₁, if_pos h₂,
    show 8 + i - 8 = i by omega, BitVec.getLsbD_eq_getElem hi]

@[simp] theorem fieldData_packWord (k : BitVec 2) (a : Addr) (d : Byte) :
    fieldData (packWord k a d) = d := by
  ext i hi
  rw [fieldData, BitVec.getElem_extractLsb', packWord_getLsbD, if_pos (by omega), Nat.zero_add,
    BitVec.getLsbD_eq_getElem hi]

@[simp] theorem parseOp_word (op : Op) : parseOp op.word = some op := by
  cases op <;> simp [parseOp, Op.word]

@[simp] theorem parseOp_reservedWord : parseOp reservedWord = none := by
  simp [parseOp, reservedWord]

/-- The decoder keeps the operation it was given. -/
@[simp] theorem decodeOp_op (c : Cfg) (op : Op) : (decodeOp c op).op = some op := by
  cases op with
  | power => rfl
  | rd a => simp only [decodeOp, decodeRD]; split_ifs <;> rfl
  | wr a d => simp only [decodeOp, decodeWR]; split_ifs <;> rfl

/-- What the decoder answers has the operands of its condition in R74. -/
theorem decodeOp_wf (c : Cfg) (op : Op) : (decodeOp c op).wf c = true := by
  cases op with
  | power => rfl
  | rd a =>
    simp only [decodeOp, decodeRD]
    split_ifs <;> simp_all [Instr.wf, Cfg.inStorage]
  | wr a d =>
    simp only [decodeOp, decodeWR]
    split_ifs <;> simp_all [Instr.wf, Cfg.inStorage, Cfg.inRegister]

theorem decode_wf (c : Cfg) (w : TWord) : (decode c w).wf c = true := by
  unfold decode
  split
  · exact decodeOp_wf c _
  · rfl

theorem decode_ne_reserved {c : Cfg} {w : TWord} (h : parseOp w ≠ none) : decode c w ≠ .reserved := by
  intro e
  obtain ⟨op, hop⟩ := Option.ne_none_iff_exists'.mp h
  have h' : (decode c w).op = some op := by simp [decode, hop]
  rw [e] at h'
  exact absurd h' (by simp [Instr.op])

theorem inWin_iff {a base : Addr} {size : Nat} :
    inWin a base size = true ↔ base.toNat ≤ a.toNat ∧ a.toNat < base.toNat + size := by
  simp [inWin]

theorem windowsDisjoint_symm {b₁ b₂ : Addr} {s₁ s₂ : Nat} (h : windowsDisjoint b₁ s₁ b₂ s₂ = true) :
    windowsDisjoint b₂ s₂ b₁ s₁ = true := by
  rw [windowsDisjoint, Bool.or_comm]
  exact h

/-- Two disjoint windows: an address of the first is not in the second. -/
theorem inWin_of_disjoint {a b₁ b₂ : Addr} {s₁ s₂ : Nat} (h : windowsDisjoint b₁ s₁ b₂ s₂ = true)
    (h₁ : inWin a b₁ s₁ = true) : inWin a b₂ s₂ = false := by
  simp only [windowsDisjoint, inWin, Bool.or_eq_true, Bool.and_eq_true, decide_eq_true_eq] at h h₁
  simp only [inWin, Bool.and_eq_false_iff, decide_eq_false_iff_not]
  omega

/-- The disjointness of WF3 and WF4 (R11), each pair under its own name. -/
theorem Cfg.wf_disjoint {c : Cfg} (h : c.wf = true) :
    windowsDisjoint c.rom0Base c.romBankSize c.romXBase c.romBankSize = true ∧
    windowsDisjoint c.rom0Base c.romBankSize c.ramBase c.ramBankSize = true ∧
    windowsDisjoint c.romXBase c.romBankSize c.ramBase c.ramBankSize = true ∧
    windowsDisjoint c.ramEnBase c.ramEnSize c.romSelBase c.romSelSize = true ∧
    windowsDisjoint c.ramEnBase c.ramEnSize c.ramSelBase c.ramSelSize = true ∧
    windowsDisjoint c.romSelBase c.romSelSize c.ramSelBase c.ramSelSize = true ∧
    windowsDisjoint c.ramEnBase c.ramEnSize c.ramBase c.ramBankSize = true ∧
    windowsDisjoint c.romSelBase c.romSelSize c.ramBase c.ramBankSize = true ∧
    windowsDisjoint c.ramSelBase c.ramSelSize c.ramBase c.ramBankSize = true := by
  simp only [Cfg.wf, Cfg.wf3, Cfg.wf4, Bool.and_eq_true] at h
  tauto

theorem Launch.wf_parts {l : Launch} (h : l.wf = true) :
    l.cfg.wf = true ∧ l.wf1 = true ∧ l.wf2 = true := by
  simp only [Launch.wf, Bool.and_eq_true] at h
  exact ⟨h.1.1, h.1.2, h.2⟩

/-- A well-formed ROM is a positive whole number of banks (WF1). -/
theorem Launch.romLen_eq {l : Launch} (h : l.wf = true) :
    l.romLen = l.romBanks * l.cfg.romBankSize ∧ 0 < l.romBanks ∧ 0 < l.cfg.romBankSize := by
  obtain ⟨hc, h1, -⟩ := Launch.wf_parts h
  simp only [Cfg.wf, Cfg.sizesPositive, Bool.and_eq_true, decide_eq_true_eq] at hc
  simp only [Launch.wf1, Bool.and_eq_true, decide_eq_true_eq, beq_iff_eq] at h1
  have e : l.romLen = l.romBanks * l.cfg.romBankSize :=
    (Nat.div_mul_cancel (Nat.dvd_of_mod_eq_zero h1.2)).symm
  refine ⟨e, Nat.pos_of_ne_zero fun h0 => ?_, hc.1.1.1.1.1.1.1⟩
  rw [h0] at e
  omega

/-- A well-formed RAM is a whole number of banks, possibly none (WF2). -/
theorem Launch.ramLen_eq {l : Launch} (h : l.wf = true) :
    l.ramLen = l.ramBanks * l.cfg.ramBankSize := by
  obtain ⟨-, -, h2⟩ := Launch.wf_parts h
  simp only [Launch.wf2, beq_iff_eq] at h2
  exact (Nat.div_mul_cancel (Nat.dvd_of_mod_eq_zero h2)).symm

end Sys2Proof
end

