-- ==== Sys2Proof/Laws/Memory.lean ====
section
/-! SUPPORT. The laws of an image: a read after a write, and the canonical form that every write keeps. -/

namespace Sys2Proof.Machine

theorem Mem.wfFrom_cons {sp : Space} {len lo j : Nat} {b : Byte} {m : List Host.Cell} :
    Mem.wfFrom sp len lo ((j, b) :: m) = true ↔
      lo ≤ j ∧ j < len ∧ b ≠ unlisted sp j ∧ Mem.wfFrom sp len (j + 1) m = true := by
  simp [Mem.wfFrom, and_assoc]

theorem Mem.wfFrom_weaken {sp : Space} {len lo lo' : Nat} {m : List Host.Cell} (h : lo' ≤ lo)
    (hm : Mem.wfFrom sp len lo m = true) : Mem.wfFrom sp len lo' m = true := by
  cases m with
  | nil => rfl
  | cons c m =>
    obtain ⟨j, b⟩ := c
    rw [Mem.wfFrom_cons] at hm ⊢
    exact ⟨h.trans hm.1, hm.2⟩

/-- Below the first index a canonical list may hold, every byte reads as unlisted. -/
theorem Mem.read_below {sp : Space} {len lo i : Nat} {m : List Host.Cell}
    (hm : Mem.wfFrom sp len lo m = true) (hi : i < lo) : Mem.read sp m i = unlisted sp i := by
  induction m generalizing lo with
  | nil => rfl
  | cons c m ih =>
    obtain ⟨j, b⟩ := c
    obtain ⟨hlo, -, -, hm⟩ := Mem.wfFrom_cons.mp hm
    rw [Mem.read, if_neg (by omega)]
    exact ih hm (by omega)

/-- A write leaves every other index as it was, in any list. -/
theorem Mem.read_write_other {sp : Space} {i k : Nat} (h : k ≠ i) (m : List Host.Cell) (v : Byte) :
    Mem.read sp (Mem.write sp m i v) k = Mem.read sp m k := by
  induction m with
  | nil => unfold Mem.write; split <;> simp [Mem.read, h]
  | cons c m ih =>
    obtain ⟨j, b⟩ := c
    rw [Mem.write]
    split
    · split <;> simp [Mem.read, h]
    · split
      · next hij => subst hij; split <;> simp [Mem.read, h]
      · simp [Mem.read, ih]

/-- A read after a write to the same index gives the byte written. -/
theorem Mem.read_write_same {sp : Space} {len lo i : Nat} {m : List Host.Cell}
    (hm : Mem.wfFrom sp len lo m = true) (v : Byte) : Mem.read sp (Mem.write sp m i v) i = v := by
  induction m generalizing lo with
  | nil => unfold Mem.write; split <;> simp_all [Mem.read]
  | cons c m ih =>
    obtain ⟨j, b⟩ := c
    obtain ⟨-, -, -, hm⟩ := Mem.wfFrom_cons.mp hm
    rw [Mem.write]
    split
    · split
      · next hij hv => rw [Mem.read, if_neg (by omega), Mem.read_below hm (by omega), hv]
      · simp [Mem.read]
    · split
      · next hij =>
        subst hij
        split
        · next hv => rw [Mem.read_below hm (by omega), hv]
        · simp [Mem.read]
      · next hij => rw [Mem.read, if_neg hij]; exact ih hm

theorem Mem.wfFrom_write {sp : Space} {len lo i : Nat} {m : List Host.Cell}
    (hm : Mem.wfFrom sp len lo m = true) (hlo : lo ≤ i) (hi : i < len) (v : Byte) :
    Mem.wfFrom sp len lo (Mem.write sp m i v) = true := by
  induction m generalizing lo with
  | nil => unfold Mem.write; split <;> simp_all [Mem.wfFrom]
  | cons c m ih =>
    obtain ⟨j, b⟩ := c
    have hc := Mem.wfFrom_cons.mp hm
    rw [Mem.write]
    split
    · split
      · exact hm
      · next hij hv =>
        exact Mem.wfFrom_cons.mpr ⟨hlo, hi, hv, Mem.wfFrom_cons.mpr ⟨hij, hc.2⟩⟩
    · split
      · next hij =>
        subst hij
        split
        · exact Mem.wfFrom_weaken (by omega) hc.2.2.2
        · next hv => exact Mem.wfFrom_cons.mpr ⟨hlo, hi, hv, hc.2.2.2⟩
      · exact Mem.wfFrom_cons.mpr ⟨hc.1, hc.2.1, hc.2.2.1, ih hc.2.2.2 (by omega)⟩

/-- Every write inside an image keeps its canonical form. -/
theorem Mem.wf_write {sp : Space} {len i : Nat} {m : List Host.Cell} (hm : Mem.wf sp len m = true)
    (hi : i < len) (v : Byte) : Mem.wf sp len (Mem.write sp m i v) = true :=
  Mem.wfFrom_write hm (Nat.zero_le i) hi v

theorem Mem.wf_nil (sp : Space) (len : Nat) : Mem.wf sp len [] = true := rfl

/-- The memory of the reset state is canonical: nothing is listed. -/
theorem State.reset_ram_wf : Mem.wf .ram State.reset.launch.ramLen State.reset.ram = true := rfl

theorem State.ramByte_setRamByte_same {s : State} {i : Nat}
    (h : Mem.wf .ram s.launch.ramLen s.ram = true) (v : Byte) : (s.setRamByte i v).ramByte i = v :=
  Mem.read_write_same h v

theorem State.ramByte_setRamByte_other (s : State) {i k : Nat} (h : k ≠ i) (v : Byte) :
    (s.setRamByte i v).ramByte k = s.ramByte k :=
  Mem.read_write_other h s.ram v

end Sys2Proof.Machine
end

