-- ==== Sys2Proof/Laws/State.lean ====
section
/-! SUPPORT. One lemma per field per update of the state, so that no proof unfolds a record update. -/

namespace Sys2Proof.Machine

@[simp] theorem State.setRamEnable_launch (s : State) (v : Bool) : (s.setRamEnable v).launch = s.launch := rfl
@[simp] theorem State.setRamEnable_ramEnable (s : State) (v : Bool) : (s.setRamEnable v).ramEnable = v := rfl
@[simp] theorem State.setRamEnable_romBank (s : State) (v : Bool) : (s.setRamEnable v).romBank = s.romBank := rfl
@[simp] theorem State.setRamEnable_ramBank (s : State) (v : Bool) : (s.setRamEnable v).ramBank = s.ramBank := rfl
@[simp] theorem State.setRamEnable_ram (s : State) (v : Bool) : (s.setRamEnable v).ram = s.ram := rfl
@[simp] theorem State.setRamEnable_bus (s : State) (v : Bool) : (s.setRamEnable v).bus = s.bus := rfl
@[simp] theorem State.setRamEnable_out (s : State) (v : Bool) : (s.setRamEnable v).out = s.out := rfl
@[simp] theorem State.setRamEnable_draws (s : State) (v : Bool) : (s.setRamEnable v).draws = s.draws := rfl

@[simp] theorem State.setRomBank_launch (s : State) (v : Byte) : (s.setRomBank v).launch = s.launch := rfl
@[simp] theorem State.setRomBank_ramEnable (s : State) (v : Byte) : (s.setRomBank v).ramEnable = s.ramEnable := rfl
@[simp] theorem State.setRomBank_romBank (s : State) (v : Byte) : (s.setRomBank v).romBank = v := rfl
@[simp] theorem State.setRomBank_ramBank (s : State) (v : Byte) : (s.setRomBank v).ramBank = s.ramBank := rfl
@[simp] theorem State.setRomBank_ram (s : State) (v : Byte) : (s.setRomBank v).ram = s.ram := rfl
@[simp] theorem State.setRomBank_bus (s : State) (v : Byte) : (s.setRomBank v).bus = s.bus := rfl
@[simp] theorem State.setRomBank_out (s : State) (v : Byte) : (s.setRomBank v).out = s.out := rfl
@[simp] theorem State.setRomBank_draws (s : State) (v : Byte) : (s.setRomBank v).draws = s.draws := rfl

@[simp] theorem State.setRamBank_launch (s : State) (v : Byte) : (s.setRamBank v).launch = s.launch := rfl
@[simp] theorem State.setRamBank_ramEnable (s : State) (v : Byte) : (s.setRamBank v).ramEnable = s.ramEnable := rfl
@[simp] theorem State.setRamBank_romBank (s : State) (v : Byte) : (s.setRamBank v).romBank = s.romBank := rfl
@[simp] theorem State.setRamBank_ramBank (s : State) (v : Byte) : (s.setRamBank v).ramBank = v := rfl
@[simp] theorem State.setRamBank_ram (s : State) (v : Byte) : (s.setRamBank v).ram = s.ram := rfl
@[simp] theorem State.setRamBank_bus (s : State) (v : Byte) : (s.setRamBank v).bus = s.bus := rfl
@[simp] theorem State.setRamBank_out (s : State) (v : Byte) : (s.setRamBank v).out = s.out := rfl
@[simp] theorem State.setRamBank_draws (s : State) (v : Byte) : (s.setRamBank v).draws = s.draws := rfl

@[simp] theorem State.setRamByte_launch (s : State) (i : Nat) (v : Byte) : (s.setRamByte i v).launch = s.launch := rfl
@[simp] theorem State.setRamByte_ramEnable (s : State) (i : Nat) (v : Byte) : (s.setRamByte i v).ramEnable = s.ramEnable := rfl
@[simp] theorem State.setRamByte_romBank (s : State) (i : Nat) (v : Byte) : (s.setRamByte i v).romBank = s.romBank := rfl
@[simp] theorem State.setRamByte_ramBank (s : State) (i : Nat) (v : Byte) : (s.setRamByte i v).ramBank = s.ramBank := rfl
@[simp] theorem State.setRamByte_ram (s : State) (i : Nat) (v : Byte) : (s.setRamByte i v).ram = Mem.write .ram s.ram i v := rfl
@[simp] theorem State.setRamByte_bus (s : State) (i : Nat) (v : Byte) : (s.setRamByte i v).bus = s.bus := rfl
@[simp] theorem State.setRamByte_out (s : State) (i : Nat) (v : Byte) : (s.setRamByte i v).out = s.out := rfl
@[simp] theorem State.setRamByte_draws (s : State) (i : Nat) (v : Byte) : (s.setRamByte i v).draws = s.draws := rfl

@[simp] theorem State.setBus_launch (s : State) (ws : List TWord) : (s.setBus ws).launch = s.launch := rfl
@[simp] theorem State.setBus_ramEnable (s : State) (ws : List TWord) : (s.setBus ws).ramEnable = s.ramEnable := rfl
@[simp] theorem State.setBus_romBank (s : State) (ws : List TWord) : (s.setBus ws).romBank = s.romBank := rfl
@[simp] theorem State.setBus_ramBank (s : State) (ws : List TWord) : (s.setBus ws).ramBank = s.ramBank := rfl
@[simp] theorem State.setBus_ram (s : State) (ws : List TWord) : (s.setBus ws).ram = s.ram := rfl
@[simp] theorem State.setBus_bus (s : State) (ws : List TWord) : (s.setBus ws).bus = ws := rfl
@[simp] theorem State.setBus_out (s : State) (ws : List TWord) : (s.setBus ws).out = s.out := rfl
@[simp] theorem State.setBus_draws (s : State) (ws : List TWord) : (s.setBus ws).draws = s.draws := rfl

@[simp] theorem State.setOut_launch (s : State) (o : Option Byte) : (s.setOut o).launch = s.launch := rfl
@[simp] theorem State.setOut_ramEnable (s : State) (o : Option Byte) : (s.setOut o).ramEnable = s.ramEnable := rfl
@[simp] theorem State.setOut_romBank (s : State) (o : Option Byte) : (s.setOut o).romBank = s.romBank := rfl
@[simp] theorem State.setOut_ramBank (s : State) (o : Option Byte) : (s.setOut o).ramBank = s.ramBank := rfl
@[simp] theorem State.setOut_ram (s : State) (o : Option Byte) : (s.setOut o).ram = s.ram := rfl
@[simp] theorem State.setOut_bus (s : State) (o : Option Byte) : (s.setOut o).bus = s.bus := rfl
@[simp] theorem State.setOut_out (s : State) (o : Option Byte) : (s.setOut o).out = o := rfl
@[simp] theorem State.setOut_draws (s : State) (o : Option Byte) : (s.setOut o).draws = s.draws := rfl

@[simp] theorem State.countDraw_launch (s : State) : (s.countDraw).launch = s.launch := rfl
@[simp] theorem State.countDraw_ramEnable (s : State) : (s.countDraw).ramEnable = s.ramEnable := rfl
@[simp] theorem State.countDraw_romBank (s : State) : (s.countDraw).romBank = s.romBank := rfl
@[simp] theorem State.countDraw_ramBank (s : State) : (s.countDraw).ramBank = s.ramBank := rfl
@[simp] theorem State.countDraw_ram (s : State) : (s.countDraw).ram = s.ram := rfl
@[simp] theorem State.countDraw_bus (s : State) : (s.countDraw).bus = s.bus := rfl
@[simp] theorem State.countDraw_out (s : State) : (s.countDraw).out = s.out := rfl
@[simp] theorem State.countDraw_draws (s : State) : (s.countDraw).draws = s.draws + 1 := rfl

@[simp] theorem State.deliver_launch (s : State) (b : Byte) : (s.deliver b).launch = s.launch := rfl
@[simp] theorem State.deliver_ramEnable (s : State) (b : Byte) : (s.deliver b).ramEnable = s.ramEnable := rfl
@[simp] theorem State.deliver_romBank (s : State) (b : Byte) : (s.deliver b).romBank = s.romBank := rfl
@[simp] theorem State.deliver_ramBank (s : State) (b : Byte) : (s.deliver b).ramBank = s.ramBank := rfl
@[simp] theorem State.deliver_ram (s : State) (b : Byte) : (s.deliver b).ram = s.ram := rfl
@[simp] theorem State.deliver_bus (s : State) (b : Byte) : (s.deliver b).bus = s.bus := rfl
@[simp] theorem State.deliver_out (s : State) (b : Byte) : (s.deliver b).out = some b := rfl
@[simp] theorem State.deliver_draws (s : State) (b : Byte) : (s.deliver b).draws = s.draws := rfl

@[simp] theorem State.complete_launch (s : State) : (s.complete).launch = s.launch := rfl
@[simp] theorem State.complete_ramEnable (s : State) : (s.complete).ramEnable = s.ramEnable := rfl
@[simp] theorem State.complete_romBank (s : State) : (s.complete).romBank = s.romBank := rfl
@[simp] theorem State.complete_ramBank (s : State) : (s.complete).ramBank = s.ramBank := rfl
@[simp] theorem State.complete_ram (s : State) : (s.complete).ram = s.ram := rfl
@[simp] theorem State.complete_bus (s : State) : (s.complete).bus = s.bus := rfl
@[simp] theorem State.complete_out (s : State) : (s.complete).out = none := rfl
@[simp] theorem State.complete_draws (s : State) : (s.complete).draws = s.draws := rfl

@[simp] theorem State.deliverFree_launch (s : State) : (s.deliverFree).launch = s.launch := rfl
@[simp] theorem State.deliverFree_ramEnable (s : State) : (s.deliverFree).ramEnable = s.ramEnable := rfl
@[simp] theorem State.deliverFree_romBank (s : State) : (s.deliverFree).romBank = s.romBank := rfl
@[simp] theorem State.deliverFree_ramBank (s : State) : (s.deliverFree).ramBank = s.ramBank := rfl
@[simp] theorem State.deliverFree_ram (s : State) : (s.deliverFree).ram = s.ram := rfl
@[simp] theorem State.deliverFree_bus (s : State) : (s.deliverFree).bus = s.bus := rfl
@[simp] theorem State.deliverFree_out (s : State) : (s.deliverFree).out = some (Config.foreignByte s.draws) := rfl
@[simp] theorem State.deliverFree_draws (s : State) : (s.deliverFree).draws = s.draws + 1 := rfl

@[simp] theorem State.powerOn_launch (s : State) : (s.powerOn).launch = s.launch := rfl
@[simp] theorem State.powerOn_ramEnable (s : State) : (s.powerOn).ramEnable = false := rfl
@[simp] theorem State.powerOn_romBank (s : State) : (s.powerOn).romBank = romBankPower s.cfg := rfl
@[simp] theorem State.powerOn_ramBank (s : State) : (s.powerOn).ramBank = 0#8 := rfl
@[simp] theorem State.powerOn_ram (s : State) : (s.powerOn).ram = s.ram := rfl
@[simp] theorem State.powerOn_bus (s : State) : (s.powerOn).bus = s.bus := rfl
@[simp] theorem State.powerOn_out (s : State) : (s.powerOn).out = s.out := rfl
@[simp] theorem State.powerOn_draws (s : State) : (s.powerOn).draws = s.draws := rfl

@[simp] theorem State.ramWindowStore_launch (s : State) (a : Addr) (d : Byte) :
    (s.ramWindowStore a d).launch = s.launch := by
  unfold State.ramWindowStore; split <;> rfl
@[simp] theorem State.ramWindowStore_ramEnable (s : State) (a : Addr) (d : Byte) :
    (s.ramWindowStore a d).ramEnable = s.ramEnable := by
  unfold State.ramWindowStore; split <;> rfl
@[simp] theorem State.ramWindowStore_romBank (s : State) (a : Addr) (d : Byte) :
    (s.ramWindowStore a d).romBank = s.romBank := by
  unfold State.ramWindowStore; split <;> rfl
@[simp] theorem State.ramWindowStore_ramBank (s : State) (a : Addr) (d : Byte) :
    (s.ramWindowStore a d).ramBank = s.ramBank := by
  unfold State.ramWindowStore; split <;> rfl
theorem State.ramWindowStore_ram (s : State) (a : Addr) (d : Byte) :
    (s.ramWindowStore a d).ram =
      if s.ramSel then Mem.write .ram s.ram (s.ramIndex a) d else s.ram := by
  unfold State.ramWindowStore; split <;> rfl
@[simp] theorem State.ramWindowStore_bus (s : State) (a : Addr) (d : Byte) :
    (s.ramWindowStore a d).bus = s.bus := by
  unfold State.ramWindowStore; split <;> rfl
@[simp] theorem State.ramWindowStore_out (s : State) (a : Addr) (d : Byte) :
    (s.ramWindowStore a d).out = s.out := by
  unfold State.ramWindowStore; split <;> rfl
@[simp] theorem State.ramWindowStore_draws (s : State) (a : Addr) (d : Byte) :
    (s.ramWindowStore a d).draws = s.draws := by
  unfold State.ramWindowStore; split <;> rfl

@[simp] theorem State.construct_launch (l : Launch) (m : List Host.Cell) : (State.construct l m).launch = l := rfl
@[simp] theorem State.construct_ramEnable (l : Launch) (m : List Host.Cell) : (State.construct l m).ramEnable = false := rfl
@[simp] theorem State.construct_romBank (l : Launch) (m : List Host.Cell) : (State.construct l m).romBank = romBankPower l.cfg := rfl
@[simp] theorem State.construct_ramBank (l : Launch) (m : List Host.Cell) : (State.construct l m).ramBank = 0#8 := rfl
@[simp] theorem State.construct_ram (l : Launch) (m : List Host.Cell) : (State.construct l m).ram = m := rfl
@[simp] theorem State.construct_bus (l : Launch) (m : List Host.Cell) : (State.construct l m).bus = [] := rfl
@[simp] theorem State.construct_out (l : Launch) (m : List Host.Cell) : (State.construct l m).out = none := rfl
@[simp] theorem State.construct_draws (l : Launch) (m : List Host.Cell) : (State.construct l m).draws = 0 := rfl

@[simp] theorem State.setBus_setBus (s : State) (v w : List TWord) : (s.setBus v).setBus w = s.setBus w := rfl
@[simp] theorem State.setBus_bus_self (s : State) : s.setBus s.bus = s := rfl
@[simp] theorem State.snapshot_ramEnable (s : State) : s.snapshot.ramEnable = s.ramEnable := rfl
@[simp] theorem State.snapshot_romBank (s : State) : s.snapshot.romBank = s.romBank := rfl
@[simp] theorem State.snapshot_ramBank (s : State) : s.snapshot.ramBank = s.ramBank := rfl
@[simp] theorem State.snapshot_ram (s : State) : s.snapshot.ram = s.ram := rfl

end Sys2Proof.Machine
end

