-- ==== Sys2Proof/Laws/Ops.lean ====
section
/-! SUPPORT. What each shared operation can do, said once. -/

namespace Sys2Proof.Machine

theorem State.ramSel_iff (s : State) : s.ramSel = true ↔ s.ramEnable = true ∧ 0 < s.launch.ramBanks := by
  simp [State.ramSel]

theorem State.ramWindowByte_open {s : State} (h : s.ramSel = true) (a : Addr) :
    s.ramWindowByte a = s.ramByte (s.ramIndex a) := by
  simp [State.ramWindowByte, h]

theorem State.ramWindowByte_closed {s : State} (h : s.ramSel = false) (a : Addr) :
    s.ramWindowByte a = s.cfg.openBus := by
  simp [State.ramWindowByte, h]

theorem State.ramWindowStore_open {s : State} (h : s.ramSel = true) (a : Addr) (d : Byte) :
    s.ramWindowStore a d = s.setRamByte (s.ramIndex a) d := by
  simp [State.ramWindowStore, h]

theorem State.ramWindowStore_closed {s : State} (h : s.ramSel = false) (a : Addr) (d : Byte) :
    s.ramWindowStore a d = s := by
  simp [State.ramWindowStore, h]

/-- The zero remap, both ways. -/
theorem remap_cases (c : Cfg) (v : Byte) :
    (c.zeroRemap = true ∧ v = 0#8 ∧ remap c v = 1#8) ∨
      (¬(c.zeroRemap = true ∧ v = 0#8) ∧ remap c v = v) := by
  unfold remap
  split <;> simp_all

theorem State.idle_next_iff {s t : State} : s.idle = .next t ↔ s.launch.wf = true ∧ s = t := by
  unfold State.idle
  split <;> simp_all

theorem State.fetch_nil {s : State} (h : s.bus = []) : s.fetch = none := by
  simp [State.fetch, h]

theorem State.fetch_cons {s : State} {w : TWord} {ws : List TWord} (h : s.bus = w :: ws) :
    s.fetch = some (w, s.setBus ws) := by
  simp [State.fetch, h]

theorem State.present_of_lt {s : State} {n : Nat} (h : n < 2 ^ 26) :
    s.present n = s.setBus (BitVec.ofNat 26 n :: s.bus) := by
  rw [State.present, readWord, if_pos h]

theorem State.present_of_ge {s : State} {n : Nat} (h : 2 ^ 26 ≤ n) : s.present n = s := by
  rw [State.present, readWord, if_neg (Nat.not_lt.mpr h)]

end Sys2Proof.Machine
end

