-- ==== Sys2Proof/Laws/Exec.lean ====
section
/-! SUPPORT. What one operation can do, said once: `exec` answers a next state exactly when the operation is legal, and
then the state is the operation's effect. -/

namespace Sys2Proof.Machine

theorem whenLegal_next_iff {i : Instr} {s k t : State} :
    whenLegal i s k = .next t ↔ s.launch.wf = true ∧ i.wf s.cfg = true ∧ k = t := by
  unfold whenLegal
  split
  · simp_all
  · split <;> simp_all

theorem whenLegal_of_legal {i : Instr} {s : State} (k : State) (hl : s.launch.wf = true)
    (hi : i.wf s.cfg = true) : whenLegal i s k = .next k :=
  whenLegal_next_iff.mpr ⟨hl, hi, rfl⟩

/-- The state a decoded operation leaves when it is legal; `RESERVED` has no effect. -/
def effect (i : Instr) (s : State) : State :=
  match i with
  | .rdRom0 a => s.deliver (s.romByte (s.romIndex0 a))
  | .rdRomX a => s.deliver (s.romByte (s.romIndexX a))
  | .rdRam a => s.deliver (s.ramWindowByte a)
  | .rdForeign _ => s.deliverFree
  | .wrRamen _ d => (s.setRamEnable (enables s.cfg d)).complete
  | .wrRomsel _ d => (s.setRomBank (romBankValue s.cfg d)).complete
  | .wrRamsel _ d => (s.setRamBank (ramBankValue s.cfg d)).complete
  | .wrRam a d => (s.ramWindowStore a d).complete
  | .wrIgn _ _ => s.complete
  | .wrForeign _ _ => s.complete
  | .power => s.powerOn.complete
  | .reserved => s

theorem exec_eq_whenLegal {i : Instr} (h : i ≠ .reserved) (s : State) :
    exec i s = whenLegal i s (effect i s) := by
  cases i <;> first | rfl | exact absurd rfl h

/-- The inversion of `exec`. -/
theorem exec_next_iff {i : Instr} {s t : State} :
    exec i s = .next t ↔
      i ≠ .reserved ∧ s.launch.wf = true ∧ i.wf s.cfg = true ∧ effect i s = t := by
  by_cases h : i = .reserved
  · subst h; simp [exec, execReserved]
  · rw [exec_eq_whenLegal h, whenLegal_next_iff]; simp [h]

theorem exec_of_legal {i : Instr} {s : State} (h : i ≠ .reserved) (hl : s.launch.wf = true)
    (hi : i.wf s.cfg = true) : exec i s = .next (effect i s) :=
  exec_next_iff.mpr ⟨h, hl, hi, rfl⟩

@[simp] theorem effect_launch (i : Instr) (s : State) : (effect i s).launch = s.launch := by
  cases i <;> simp [effect]

@[simp] theorem effect_bus (i : Instr) (s : State) : (effect i s).bus = s.bus := by
  cases i <;> simp [effect]

theorem State.ramWindowStore_setBus (s : State) (ws : List TWord) (a : Addr) (d : Byte) :
    (s.setBus ws).ramWindowStore a d = (s.ramWindowStore a d).setBus ws := by
  by_cases h : s.ramSel = true
  · have h' : (s.setBus ws).ramSel = true := h
    rw [State.ramWindowStore, if_pos h', State.ramWindowStore, if_pos h]
    rfl
  · have h' : ¬(s.setBus ws).ramSel = true := h
    rw [State.ramWindowStore, if_neg h', State.ramWindowStore, if_neg h]

/-- What waits on the bus plays no part in an operation's effect. -/
theorem effect_setBus (i : Instr) (s : State) (ws : List TWord) :
    effect i (s.setBus ws) = (effect i s).setBus ws := by
  cases i with
  | wrRam a d => exact congrArg State.complete (State.ramWindowStore_setBus s ws a d)
  | _ => rfl

/-- What waits on the bus plays no part in whether and why an operation is refused. -/
theorem exec_setBus_refused {i : Instr} {s : State} {r : Refusal} (ws : List TWord) (h : exec i s = .refused r) :
    exec i (s.setBus ws) = .refused r := by
  by_cases hr : i = .reserved
  · subst hr; exact h
  · rw [exec_eq_whenLegal hr] at h ⊢
    unfold whenLegal at h ⊢
    simp only [State.cfg, State.setBus_launch] at h ⊢
    by_cases h₁ : s.launch.wf = false
    · simpa [h₁] using h
    · by_cases h₂ : i.wf s.launch.cfg = false
      · simpa [h₁, h₂] using h
      · simp [h₁, h₂] at h

theorem exec_setBus_next {i : Instr} {s t : State} (ws : List TWord) (h : exec i s = .next t) :
    exec i (s.setBus ws) = .next (t.setBus ws) := by
  obtain ⟨hr, hl, hi, rfl⟩ := exec_next_iff.mp h
  rw [← effect_setBus]
  exact exec_of_legal hr hl hi

/-- A run goes on from the state its first step gives. -/
theorem core_run_succ_of_next {k : Nat} {s t : State} (h : step s = .next t) :
    core.run (k + 1) s = core.run k t := by
  have h' : core.step s = .next t := h
  exact (Host.Core.run.eq_2 core s k).trans (by rw [h'])

/-- A run stops at its first refusal. -/
theorem core_run_succ_of_refused {k : Nat} {s : State} {r : Refusal} (h : step s = .refused r) :
    core.run (k + 1) s = .refused r := by
  have h' : core.step s = .refused r := h
  exact (Host.Core.run.eq_2 core s k).trans (by rw [h'])

end Sys2Proof.Machine
end

