-- ==== Sys2Proof/Laws/PerInstr.lean ====
section
/-! SUPPORT. Facts about every decoded operation as syntax, one lemma per constructor. -/

namespace Sys2Proof.Laws.EncodeFields

/-- The kind field of an operation's word (R71). -/
def kindOf : Instr → BitVec 2
  | .rdRom0 _ => 0#2
  | .rdRomX _ => 0#2
  | .rdRam _ => 0#2
  | .rdForeign _ => 0#2
  | .wrRamen _ _ => 1#2
  | .wrRomsel _ _ => 1#2
  | .wrRamsel _ _ => 1#2
  | .wrRam _ _ => 1#2
  | .wrIgn _ _ => 1#2
  | .wrForeign _ _ => 1#2
  | .power => 2#2
  | .reserved => 3#2

/-- The encoder writes the operation's kind, and the word spells the operation it stands for (R71, R72). -/
def Statement (i : Instr) : Prop := fieldKind (encode i) = kindOf i ∧ parseOp (encode i) = i.op

theorem rdRom0 (a : Addr) : Statement (.rdRom0 a) := by simp [Statement, encode, Instr.op, Op.word, kindOf, parseOp]
theorem rdRomX (a : Addr) : Statement (.rdRomX a) := by simp [Statement, encode, Instr.op, Op.word, kindOf, parseOp]
theorem rdRam (a : Addr) : Statement (.rdRam a) := by simp [Statement, encode, Instr.op, Op.word, kindOf, parseOp]
theorem rdForeign (a : Addr) : Statement (.rdForeign a) := by simp [Statement, encode, Instr.op, Op.word, kindOf, parseOp]
theorem wrRamen (a : Addr) (d : Byte) : Statement (.wrRamen a d) := by
  simp [Statement, encode, Instr.op, Op.word, kindOf, parseOp]
theorem wrRomsel (a : Addr) (d : Byte) : Statement (.wrRomsel a d) := by
  simp [Statement, encode, Instr.op, Op.word, kindOf, parseOp]
theorem wrRamsel (a : Addr) (d : Byte) : Statement (.wrRamsel a d) := by
  simp [Statement, encode, Instr.op, Op.word, kindOf, parseOp]
theorem wrRam (a : Addr) (d : Byte) : Statement (.wrRam a d) := by
  simp [Statement, encode, Instr.op, Op.word, kindOf, parseOp]
theorem wrIgn (a : Addr) (d : Byte) : Statement (.wrIgn a d) := by
  simp [Statement, encode, Instr.op, Op.word, kindOf, parseOp]
theorem wrForeign (a : Addr) (d : Byte) : Statement (.wrForeign a d) := by
  simp [Statement, encode, Instr.op, Op.word, kindOf, parseOp]
theorem power : Statement .power := by simp [Statement, encode, Instr.op, Op.word, kindOf, parseOp]
theorem reserved : Statement .reserved := by
  simp [Statement, encode, Instr.op, reservedWord, kindOf, parseOp]

end Sys2Proof.Laws.EncodeFields
end

