-- ==== Sys2Proof/Laws/Run.lean ====
section
/-! SUPPORT. One operation of a fold, for inductions over a sequence of words. -/

namespace Sys2Proof.Machine

theorem foldWords_cons_of_next {w : TWord} {ws : List TWord} {s u : State}
    (h : exec (decode s.cfg w) s = .next u) : foldWords (w :: ws) s = foldWords ws u := by
  rw [foldWords, h]

/-- A fold that answers a next state went through its first operation. -/
theorem foldWords_cons_next {w : TWord} {ws : List TWord} {s t : State} (h : foldWords (w :: ws) s = .next t) :
    ∃ u, exec (decode s.cfg w) s = .next u ∧ foldWords ws u = .next t := by
  rw [foldWords] at h
  cases h' : exec (decode s.cfg w) s with
  | next u => exact ⟨u, rfl, by simpa [h'] using h⟩
  | fault r => exact r.casesOn
  | refused r => simp [h'] at h

end Sys2Proof.Machine
end

