-- ==== Sys2Proof/Tests/Slice0.lean ====
section
/-! SUPPORT. Tests of the model against the spec's own vectors (95_test_vectors.md) and words, the ill-formed terms the
checks refuse, and a witness for the hypotheses of each statement. -/

namespace Sys2Proof.Tests

open Sys2Proof Sys2Proof.Machine

/-! ### Helpers -/

/-- The byte an operation returned. -/
def outOf : Host.Outcome State Fault Refusal → Option Byte
  | .next t => t.out
  | _ => none

/-- The registers an operation left, as the spec writes them: `(ramEnable, romBank, ramBank)`. -/
def regsOf : Host.Outcome State Fault Refusal → Option (Bool × Byte × Byte)
  | .next t => some (t.ramEnable, t.romBank, t.ramBank)
  | _ => none

/-- The cells of RAM an operation left. -/
def ramOf : Host.Outcome State Fault Refusal → Option (List Host.Cell)
  | .next t => some t.ram
  | _ => none

/-- Why an operation was refused. -/
def refusalOf : Host.Outcome State Fault Refusal → Option Refusal
  | .refused r => some r
  | _ => none

/-- `PAT4`, `EE(4)`, with the registers given. -/
def at4 (e : Bool) (r b : Byte) : State :=
  ((State.reset.setRamEnable e).setRomBank r).setRamBank b

/-- The same under another launch. -/
def under (l : Launch) (e : Bool) (r b : Byte) : State := { at4 e r b with launch := l }

/-- `PATn` with a RAM of `m` banks. -/
def patLaunch (n m : Nat) : Launch := { Launch.ref with romLen := n * 0x4000, ramLen := m * 0x2000 }

/-- `ROM_HIGH` mode over 128 banks whose bytes at the bases of banks 37 and 97 are their bank numbers (PATB128). -/
def highLaunch : Launch where
  cfg := { Cfg.ref with ramSelMode := .romHigh }
  romLen := 128 * 0x4000
  rom := [(0x94000, 0x25#8), (0x184000, 0x61#8)]
  ramLen := 4 * 0x2000

/-- The configuration of V10. -/
def cfgV10 : Cfg :=
  { Cfg.ref with romBankBits := 7, ramBankBits := 4, zeroRemap := false, openBus := 0x00#8, enMask := 0xFF#8 }

def launchV10 : Launch := { Launch.ref with cfg := cfgV10, romLen := 128 * 0x4000, ramLen := 16 * 0x2000 }

/-! ### Words, bit by bit from R71 and R75 -/

/-- R110's example: `RD 0x3FFF` is 0x03FFF00. -/
theorem test_decode_rdRom0 : decode Cfg.ref 0b00_0011111111111111_00000000#26 = .rdRom0 0x3FFF#16 := by decide
/-- V8: a non-canonical word of `RD 0x4000`. -/
theorem test_decode_rdRomX : decode Cfg.ref 0x0400055#26 = .rdRomX 0x4000#16 := by decide
/-- R112's example. -/
theorem test_decode_rdRam : decode Cfg.ref 0b00_1010000000010000_00000000#26 = .rdRam 0xA010#16 := by decide
/-- V7: both ranges of the row. -/
theorem test_decode_rdForeign :
    decode Cfg.ref 0x09FFF00#26 = .rdForeign 0x9FFF#16 ∧ decode Cfg.ref 0x0C00000#26 = .rdForeign 0xC000#16 := by decide
/-- R120's example: `WR 0x1FFF, 0x00` is 0x11FFF00. -/
theorem test_decode_wrRamen : decode Cfg.ref 0b01_0001111111111111_00000000#26 = .wrRamen 0x1FFF#16 0x00#8 := by decide
/-- P1 step 7: `WR 0x3FFF, 0x06` is 0x13FFF06. -/
theorem test_decode_wrRomsel : decode Cfg.ref 0x13FFF06#26 = .wrRomsel 0x3FFF#16 0x06#8 := by decide
/-- R122's example. -/
theorem test_decode_wrRamsel : decode Cfg.ref 0b01_0100000000000000_00000011#26 = .wrRamsel 0x4000#16 0x03#8 := by decide
/-- R130's example. -/
theorem test_decode_wrRam : decode Cfg.ref 0x1A01042#26 = .wrRam 0xA010#16 0x42#8 := by decide
/-- V7: `WR 0x7FFF, 0xFF`. -/
theorem test_decode_wrIgn : decode Cfg.ref 0x17FFFFF#26 = .wrIgn 0x7FFF#16 0xFF#8 := by decide
/-- V7: both ranges of the row. -/
theorem test_decode_wrForeign :
    decode Cfg.ref 0x1800012#26 = .wrForeign 0x8000#16 0x12#8 ∧
      decode Cfg.ref 0x1FFFF01#26 = .wrForeign 0xFFFF#16 0x01#8 := by decide
/-- V8: a non-canonical word of `POWER`. -/
theorem test_decode_power : decode Cfg.ref 0x2ABCDEF#26 = .power := by decide
/-- V8: the last reserved word. -/
theorem test_decode_reserved : decode Cfg.ref 0x3FFFFFF#26 = .reserved := by decide
/-- The words R71 gives as examples, from the encoder. -/
theorem test_encode_examples :
    encode (.rdRomX 0x4000#16) = 0x0400000#26 ∧ encode (.wrRomsel 0x2000#16 0x02#8) = 0x1200002#26 ∧
      encode (.wrRam 0xA010#16 0x42#8) = 0x1A01042#26 ∧ encode .power = 0x2000000#26 := by decide
/-- R103's boundary addresses, for `RD`. -/
theorem test_decode_rd_boundaries :
    [0x3FFF#16, 0x4000#16, 0x7FFF#16, 0x8000#16, 0x9FFF#16, 0xA000#16, 0xBFFF#16, 0xC000#16].map (decodeRD Cfg.ref) =
      [.rdRom0 0x3FFF#16, .rdRomX 0x4000#16, .rdRomX 0x7FFF#16, .rdForeign 0x8000#16, .rdForeign 0x9FFF#16,
        .rdRam 0xA000#16, .rdRam 0xBFFF#16, .rdForeign 0xC000#16] := by decide
/-- R103's boundary addresses, for `WR`. -/
theorem test_decode_wr_boundaries :
    [0x1FFF#16, 0x2000#16, 0x3FFF#16, 0x4000#16, 0x5FFF#16, 0x6000#16].map (decodeWR Cfg.ref · 7#8) =
      [.wrRamen 0x1FFF#16 7#8, .wrRomsel 0x2000#16 7#8, .wrRomsel 0x3FFF#16 7#8, .wrRamsel 0x4000#16 7#8,
        .wrRamsel 0x5FFF#16 7#8, .wrIgn 0x6000#16 7#8] := by decide
/-- A 27th bit spells no word (R71). -/
theorem test_wide_number_rejected : decodeTableWord 32 0x4000000 = none ∧ readWord 0x4000000 = .error .wordTooWide :=
  ⟨rfl, rfl⟩
/-- R80's expansions under `CFG_REF`. -/
theorem test_pseudo_expansions :
    Pseudo.ramOn.expand Cfg.ref = some (.wr 0x0000#16 0x0A#8) ∧ Pseudo.ramOff.expand Cfg.ref = some (.wr 0x0000#16 0#8) ∧
      (Pseudo.romBank 3#8).expand Cfg.ref = some (.wr 0x2000#16 3#8) ∧
      (Pseudo.ramBank 3#8).expand Cfg.ref = some (.wr 0x4000#16 3#8) := by decide
/-- R80: `RAMOFF` requires `enValue != 0`. -/
theorem test_ramOff_needs_value : Pseudo.ramOff.expand { Cfg.ref with enValue := 0#8 } = none := by decide

/-! ### Ill-formed terms, each refused by its check -/

theorem test_reference_launch_wf : Launch.ref.wf = true ∧ highLaunch.wf = true ∧ launchV10.wf = true ∧
    (patLaunch 3 1).wf = true ∧ (patLaunch 1 0).wf = true ∧ Cfg.ref.wf6 = true := by decide
theorem test_wf1_no_rom : { Launch.ref with romLen := 0 }.wf = false := by decide
theorem test_wf1_part_of_a_bank : { Launch.ref with romLen := 0x4001 }.wf = false := by decide
theorem test_wf2_part_of_a_bank : { Launch.ref with ramLen := 0x1000 }.wf = false := by decide
theorem test_wf3_outside : { Cfg.ref with ramBase := 0xF000#16 }.wf = false := by decide
theorem test_wf3_overlap : { Cfg.ref with romXBase := 0x3FFF#16 }.wf = false := by decide
theorem test_wf4_outside : { Cfg.ref with ramSelBase := 0xE001#16 }.wf = false := by decide
theorem test_wf4_overlap : { Cfg.ref with romSelBase := 0x1FFF#16 }.wf = false := by decide
theorem test_wf4_overlaps_ram : { Cfg.ref with ramSelBase := 0xA000#16 }.wf = false := by decide
theorem test_wf5_rom_bits : { Cfg.ref with romBankBits := 0 }.wf = false ∧ { Cfg.ref with romBankBits := 9 }.wf = false := by
  decide
theorem test_wf5_ram_bits : { Cfg.ref with ramBankBits := 9 }.wf = false ∧ { Cfg.ref with ramBankBits := 0 }.wf = true := by
  decide
/-- R9: sizes are positive. -/
theorem test_sizes_positive : { Cfg.ref with romSelSize := 0 }.wf = false ∧ { Cfg.ref with romBankSize := 0 }.wf = false := by
  decide
/-- WF6 is a warning: a `cfg` no byte of which enables RAM is still well formed. -/
theorem test_wf6_is_a_warning : { Cfg.ref with enValue := 0x10#8 }.wf6 = false ∧ { Cfg.ref with enValue := 0x10#8 }.wf = true := by
  decide
/-- One ill-formed operand for each decoded operation that has one, just outside its window. -/
theorem test_illFormed_operands :
    [Instr.rdRom0 0x4000#16, .rdRomX 0x3FFF#16, .rdRam 0xC000#16, .rdForeign 0xA000#16, .wrRamen 0x2000#16 0#8,
      .wrRomsel 0x1FFF#16 0#8, .wrRamsel 0x6000#16 0#8, .wrRam 0x9FFF#16 0#8, .wrIgn 0x5FFF#16 0#8,
      .wrForeign 0xBFFF#16 0#8].map (Instr.wf Cfg.ref) = List.replicate 10 false := by decide
theorem test_illFormed_operand_refused :
    refusalOf (exec (.rdRom0 0x4000#16) State.reset) = some .operandOutsideWindow := by decide
theorem test_illFormed_launch_refused :
    refusalOf (exec .power (under { Launch.ref with romLen := 0 } false 1#8 0#8)) = some .illFormedLaunch := by decide
/-- The canonical form refuses a cell out of order, one past the end, and one equal to the unlisted byte. -/
theorem test_memory_wf :
    Mem.wf .ram 8 [(1, 0#8), (5, 1#8)] = true ∧ Mem.wf .ram 8 [(5, 1#8), (1, 0#8)] = false ∧
      Mem.wf .ram 8 [(8, 0#8)] = false ∧ Mem.wf .ram 8 [(1, 0xEE#8)] = false := by decide

/-! ### One operation each, expected results from 95_test_vectors.md -/

/-- The test image `PAT4`: the five bytes the spec lists. -/
theorem test_pat4 : [0x4000, 0x8000, 0xC000, 0x8005, 0xBFFF].map State.reset.romByte =
    [0x10#8, 0x20#8, 0x30#8, 0x25#8, 0x2F#8] := by decide
/-- R110: `RD 0x3FFF` returns 0x0F whatever the registers. -/
theorem test_rdRom0_last : outOf (exec (.rdRom0 0x3FFF#16) (at4 true 7#8 3#8)) = some 0x0F#8 := by decide
/-- V7: reading a register window reads ROM. -/
theorem test_rdRom0_register_window : outOf (exec (.rdRom0 0x2000#16) (at4 true 5#8 2#8)) = some 0x00#8 := by decide
/-- V3: a 3-bank ROM reduces by `mod 3`, not by a mask (romBank 7 shows bank 1). -/
theorem test_rdRomX_mod3 : outOf (exec (.rdRomX 0x4005#16) (under (patLaunch 3 1) false 7#8 0#8)) = some 0x15#8 := by decide
/-- V9: `ROM_HIGH`, romBank 5 and ramBank 1 show bank 37. -/
theorem test_rdRomX_high : outOf (exec (.rdRomX 0x4000#16) (under highLaunch false 5#8 1#8)) = some 0x25#8 := by decide
/-- V5: the gate closed because disabled, and because absent. -/
theorem test_rdRam_gated : outOf (exec (.rdRam 0xA123#16) (at4 false 1#8 0#8)) = some 0xFF#8 ∧
    outOf (exec (.rdRam 0xA123#16) (under (patLaunch 4 0) true 1#8 3#8)) = some 0xFF#8 := by decide
/-- V5, last row: `RAM[0x4123]` through bank 2. -/
theorem test_rdRam_bank2 :
    outOf (exec (.rdRam 0xA123#16) { at4 true 1#8 2#8 with ram := [(0x4123, 0x77#8)] }) = some 0x77#8 := by decide
/-- R93: the byte is the free draw, and the draw is counted. -/
theorem test_rdForeign_draws : exec (.rdForeign 0x8000#16) State.reset =
    .next { State.reset with out := some (Config.foreignByte 0), draws := 1 } := rfl
/-- V2: the twelve data bytes. -/
theorem test_wrRamen_bytes :
    [0x0A#8, 0x1A#8, 0x5A#8, 0xAA#8, 0xFA#8, 0x00#8, 0x05#8, 0x09#8, 0x0B#8, 0x0F#8, 0xA0#8, 0xFF#8].map (enables Cfg.ref) =
      [true, true, true, true, true, false, false, false, false, false, false, false] := by decide
theorem test_wrRamen_enables : regsOf (exec (.wrRamen 0x1234#16 0xFA#8) (at4 false 5#8 2#8)) = some (true, 5#8, 2#8) := by
  decide
/-- V3: the stored `romBank` for data 0x00, 0x20, 0x21, 0xE0, 0xFF, 0x06. -/
theorem test_wrRomsel_bytes : [0x00#8, 0x20#8, 0x21#8, 0xE0#8, 0xFF#8, 0x06#8].map (romBankValue Cfg.ref) =
    [1#8, 1#8, 1#8, 1#8, 31#8, 6#8] := by decide
/-- V3: with `zeroRemap = false`, data 0x20 stores 0. -/
theorem test_wrRomsel_no_remap :
    regsOf (exec (.wrRomsel 0x2000#16 0x80#8) (under launchV10 true 127#8 0#8)) = some (true, 0#8, 0#8) := by decide
/-- V6: the stored `ramBank` for data 0x03, 0x04, 0x05, 0xFC, 0xFF. -/
theorem test_wrRamsel_bytes : [0x03#8, 0x04#8, 0x05#8, 0xFC#8, 0xFF#8].map (ramBankValue Cfg.ref) =
    [3#8, 0#8, 1#8, 0#8, 3#8] := by decide
/-- R23: with `ramBankBits = 0` every write stores 0. -/
theorem test_wrRamsel_no_bits : ramBankValue { Cfg.ref with ramBankBits := 0 } 0xFF#8 = 0#8 := by decide
/-- P4 step 4: with one RAM bank, a store made with `ramBank = 3` lands in bank 0. -/
theorem test_wrRam_aliases :
    ramOf (exec (.wrRam 0xA005#16 0x5A#8) (under (patLaunch 3 1) true 1#8 3#8)) = some [(0x0005, 0x5A#8)] := by decide
/-- P3 step 16: in `ROM_HIGH` mode the store goes to RAM bank 0 whatever `ramBank` is. -/
theorem test_wrRam_high :
    ramOf (exec (.wrRam 0xA000#16 0x77#8) (under highLaunch true 31#8 3#8)) = some [(0x0000, 0x77#8)] := by decide
/-- V10 step 16: `RAM[0x1E000] <- 0x12`. -/
theorem test_wrRam_v10 :
    ramOf (exec (.wrRam 0xA000#16 0x12#8) (under launchV10 true 127#8 15#8)) = some [(0x1E000, 0x12#8)] := by decide
/-- P2 step 18: a gated write is discarded. -/
theorem test_wrRam_gated : ramOf (exec (.wrRam 0xA000#16 0x99#8) (at4 false 1#8 1#8)) = some [] := by decide
/-- V7. -/
theorem test_wrIgn : regsOf (exec (.wrIgn 0x6000#16 0x01#8) (at4 true 5#8 2#8)) = some (true, 5#8, 2#8) := by decide
/-- V7: "if continued, state (1, 5, 2), `RAM` unchanged". -/
theorem test_wrForeign : regsOf (exec (.wrForeign 0xFFFF#16 0x01#8) (at4 true 5#8 2#8)) = some (true, 5#8, 2#8) := by decide
/-- V4, with and without `zeroRemap`. -/
theorem test_power : regsOf (exec .power (at4 true 7#8 3#8)) = some (false, 1#8, 0#8) ∧
    regsOf (exec .power (under launchV10 true 7#8 3#8)) = some (false, 0#8, 0#8) := by decide
theorem test_reserved_refused :
    refusalOf (step (State.reset.withFetchWord 32 0x3000000)) = some .reservedWord := by decide
/-- S1 step 4 from reset: the window shows bank 1. -/
theorem test_step_runs_word : outOf (step (State.reset.withFetchWord 32 0x0400000)) = some 0x10#8 := by decide
theorem test_step_idle : regsOf (step State.reset) = some (false, 1#8, 0#8) := by decide
/-- Writing the unlisted byte back removes the cell. -/
theorem test_write_keeps_canonical : Mem.write .ram [(3, 1#8), (5, 2#8)] 3 0xEE#8 = [(5, 2#8)] := by decide

/-! ### Witnesses: the hypotheses of each statement, met together -/

/-- The reset state with one more thing waiting: used where a statement needs a non-empty bus. -/
def waiting (w : TWord) : State := State.reset.setBus [w]

theorem witness_cfg_wf : Cfg.ref.wf = true := by decide
theorem witness_DecodeMapIsExact : Cfg.ref.wf = true ∧ (Instr.wrIgn 0x6000#16 9#8).wf Cfg.ref = true := by decide
theorem witness_EncodeDecodeRoundTrip : Cfg.ref.wf = true ∧
    [Instr.rdRom0 0x3FFF#16, .rdRomX 0x7FFF#16, .rdRam 0xBFFF#16, .rdForeign 0xFFFF#16, .wrRamen 0x1FFF#16 0xFF#8,
      .wrRomsel 0x3FFF#16 0xFF#8, .wrRamsel 0x5FFF#16 0xFF#8, .wrRam 0xBFFF#16 0xFF#8, .wrIgn 0x7FFF#16 0xFF#8,
      .wrForeign 0xFFFF#16 0xFF#8, .power, .reserved].map (Instr.wf Cfg.ref) = List.replicate 12 true := by decide
/-- A word in each row of R75, at the last address of its range. -/
theorem witness_ReferenceDecodeTable :
    0x03FFF00#26 &&& 0x3C00000#26 = 0x0000000#26 ∧ 0x07FFFFF#26 &&& 0x3C00000#26 = 0x0400000#26 ∧
    0x09FFFFF#26 &&& 0x3E00000#26 = 0x0800000#26 ∧ 0x0BFFFFF#26 &&& 0x3E00000#26 = 0x0A00000#26 ∧
    0x0FFFFFF#26 &&& 0x3C00000#26 = 0x0C00000#26 ∧ 0x11FFFFF#26 &&& 0x3E00000#26 = 0x1000000#26 ∧
    0x13FFFFF#26 &&& 0x3E00000#26 = 0x1200000#26 ∧ 0x15FFFFF#26 &&& 0x3E00000#26 = 0x1400000#26 ∧
    0x17FFFFF#26 &&& 0x3E00000#26 = 0x1600000#26 ∧ 0x19FFFFF#26 &&& 0x3E00000#26 = 0x1800000#26 ∧
    0x1BFFFFF#26 &&& 0x3E00000#26 = 0x1A00000#26 ∧ 0x1FFFFFF#26 &&& 0x3C00000#26 = 0x1C00000#26 ∧
    0x2FFFFFF#26 &&& 0x3000000#26 = 0x2000000#26 ∧ 0x3FFFFFF#26 &&& 0x3000000#26 = 0x3000000#26 := by decide
theorem witness_PseudoOperations : Cfg.ref.wf = true ∧ Cfg.ref.wf6 = true ∧ Cfg.ref.enValue ≠ 0#8 := by decide
theorem witness_StepRunsDecodedOperation : (waiting 0x2000000#26).bus = 0x2000000#26 :: [] := rfl
theorem witness_PresentedWordRunsNext : 0x3FFFFFF < 2 ^ 26 := by decide
theorem witness_IdleStepKeepsState : State.reset.launch.wf = true ∧ State.reset.bus = [] := by decide
theorem witness_OperationsNeverFault : (waiting 0x0800000#26).launch.wf = true ∧
    (waiting 0x0800000#26).bus = 0x0800000#26 :: [] ∧ parseOp 0x0800000#26 ≠ none := by decide
theorem witness_ReservedWordIsRefused : fieldKind 0x3000000#26 = 3#2 ∧
    (waiting 0x3000000#26).bus = 0x3000000#26 :: [] := by decide
theorem witness_IllFormedLaunchIsRefused : (under { Launch.ref with romLen := 0 } false 1#8 0#8).launch.wf = false ∧
    Instr.power ≠ .reserved ∧ (under { Launch.ref with romLen := 0 } false 1#8 0#8).bus = [] := by decide
theorem witness_RunOfOperationsCompletes : State.reset.launch.wf = true ∧ AllOps [0x2000000#26, 0x0A00000#26] := by
  refine ⟨by decide, fun w hw => ?_⟩
  simp only [List.mem_cons, List.not_mem_nil, or_false] at hw
  rcases hw with rfl | rfl <;> decide
theorem witness_RdRom0Returns : State.reset.launch.wf = true ∧ State.reset.cfg.inRom0 0x0000#16 = true ∧
    State.reset.cfg.inRom0 0x3FFF#16 = true := by decide
theorem witness_FixedWindowIsNeverSwitched : ∃ t, exec (.rdRom0 0x3FFF#16) State.reset = .next t := ⟨_, rfl⟩
theorem witness_RdRomXReturnsSelectedBank : (at4 false 31#8 0#8).launch.wf = true ∧
    (at4 false 31#8 0#8).cfg.inRomX 0x4000#16 = true ∧ (at4 false 31#8 0#8).cfg.inRomX 0x7FFF#16 = true ∧
    (at4 false 31#8 0#8).cfg.ramSelMode = .ramBank := by decide
theorem witness_RdRomXReturnsHighBank : (under highLaunch false 5#8 1#8).launch.wf = true ∧
    (under highLaunch false 5#8 1#8).cfg.inRomX 0x7FFF#16 = true ∧
    (under highLaunch false 5#8 1#8).cfg.ramSelMode = .romHigh := by decide
theorem witness_RdRamReturns : State.reset.launch.wf = true ∧ State.reset.cfg.inRam 0xA000#16 = true ∧
    State.reset.cfg.inRam 0xBFFF#16 = true := by decide
/-- The gate open, and closed in each of its two ways. -/
theorem witness_RamGateGuardsTheWindow : (at4 true 1#8 3#8).launch.wf = true ∧ (at4 true 1#8 3#8).cfg.inRam 0xBFFF#16 = true ∧
    (at4 true 1#8 3#8).ramSel = true ∧ (at4 false 1#8 3#8).ramSel = false ∧
    (under (patLaunch 4 0) true 1#8 3#8).launch.wf = true ∧ (under (patLaunch 4 0) true 1#8 3#8).ramSel = false := by decide
theorem witness_OpenBusOnlyInTheRamWindow : State.reset.launch.wf = true ∧ State.reset.cfg.inRam 0xA000#16 = true ∧
    State.reset.ramSel = false := by decide
theorem witness_OpenBusOnlyInTheRamWindow_others : (∀ a, Instr.rdRomX 0x4000#16 ≠ .rdRam a) ∧
    ∃ t, exec (.rdRomX 0x4000#16) State.reset = .next t := ⟨fun _ h => Instr.noConfusion h, _, rfl⟩
theorem witness_RdForeignDrawsFreely : State.reset.launch.wf = true ∧ State.reset.cfg.inStorage 0x8000#16 = false ∧
    State.reset.cfg.inStorage 0xFFFF#16 = false := by decide
theorem witness_DefinedReadsArePure : State.reset.launch = (waiting 0#26).launch ∧
    State.reset.snapshot = (waiting 0#26).snapshot ∧ (∃ t, exec (.rdRam 0xA000#16) State.reset = .next t) ∧
    ∃ t, exec (.rdRam 0xA000#16) (waiting 0#26) = .next t := ⟨rfl, rfl, ⟨_, rfl⟩, _, rfl⟩
/-- The values 6 and 2 alias under four banks; with one RAM bank 3 and 0 do. -/
theorem witness_BankValuesAlias : (at4 true 2#8 0#8).cfg.ramSelMode = .ramBank ∧
    (6#8).toNat % (at4 true 2#8 0#8).launch.romBanks = (at4 true 2#8 0#8).romBank.toNat % (at4 true 2#8 0#8).launch.romBanks ∧
    (3#8).toNat % (patLaunch 3 1).ramBanks = (0#8).toNat % (patLaunch 3 1).ramBanks := by decide
theorem witness_BankValuesAlias_reads : (∃ t, exec (.rdRomX 0x7FFF#16) (at4 true 2#8 0#8) = .next t) ∧
    ∃ t, exec (.rdRam 0xBFFF#16) (under (patLaunch 3 1) true 1#8 0#8) = .next t := ⟨⟨_, rfl⟩, _, rfl⟩
/-- The last index of each image is reached: 0xFFFF of ROM by bank 3, 0x7FFF of RAM by bank 3. -/
theorem witness_IndicesStayInBounds : (at4 true 3#8 3#8).launch.wf = true ∧
    (Instr.rdRomX 0x7FFF#16).wf (at4 true 3#8 3#8).cfg = true ∧ (at4 true 3#8 3#8).romAddr (.rdRomX 0x7FFF#16) = some 0xFFFF ∧
    (Instr.wrRam 0xBFFF#16 0#8).wf (at4 true 3#8 3#8).cfg = true ∧
    (at4 true 3#8 3#8).ramAddr (.wrRam 0xBFFF#16 0#8) = some 0x7FFF := by decide
theorem witness_MultiplexerOutputsAreUsed : (∃ t, exec (.rdRam 0xA000#16) (at4 true 1#8 0#8) = .next t) ∧
    (at4 true 1#8 0#8).dout (.rdRam 0xA000#16) = some 0xEE#8 := ⟨⟨_, rfl⟩, by decide⟩
theorem witness_MultiplexerOutputsAreUsed_store : ∃ t, exec (.wrRam 0xA000#16 1#8) (at4 true 1#8 0#8) = .next t ∧
    t.ramByte 0 ≠ (at4 true 1#8 0#8).ramByte 0 := ⟨_, rfl, by decide⟩
theorem witness_MaskIsReduction : (0 ≤ 8) ∧ (8 ≤ 8) := by decide
theorem witness_WrRamenLoadsTheLatch : State.reset.launch.wf = true ∧ State.reset.cfg.inRamEn 0x0000#16 = true ∧
    State.reset.cfg.inRamEn 0x1FFF#16 = true := by decide
theorem witness_WrRomselLoadsTheBank : State.reset.launch.wf = true ∧ State.reset.cfg.inRomSel 0x2000#16 = true ∧
    State.reset.cfg.inRomSel 0x3FFF#16 = true := by decide
theorem witness_WrRamselLoadsTheBank : State.reset.launch.wf = true ∧ State.reset.cfg.inRamSel 0x4000#16 = true ∧
    State.reset.cfg.inRamSel 0x5FFF#16 = true := by decide
theorem witness_WrRamStoresOneByte : (at4 true 1#8 0#8).launch.wf = true ∧ (at4 true 1#8 0#8).cfg.inRam 0xBFFF#16 = true ∧
    Mem.wf .ram (at4 true 1#8 0#8).launch.ramLen (at4 true 1#8 0#8).ram = true := by decide
theorem witness_WrIgnDoesNothing : State.reset.launch.wf = true ∧
    (State.reset.cfg.inRom0 0x6000#16 = true ∨ State.reset.cfg.inRomX 0x6000#16 = true) ∧
    State.reset.cfg.inRegister 0x6000#16 = false ∧ State.reset.cfg.inRam 0x6000#16 = false := by decide
theorem witness_WrForeignDoesNothing : State.reset.launch.wf = true ∧ State.reset.cfg.inStorage 0x8000#16 = false ∧
    State.reset.cfg.inRegister 0x8000#16 = false := by decide
theorem witness_ForeignOperationsKeepTheState : (∃ t, exec (.rdForeign 0xFFFF#16) State.reset = .next t) ∧
    ∃ t, exec (.wrForeign 0xFFFF#16 0#8) State.reset = .next t := ⟨⟨_, rfl⟩, _, rfl⟩
theorem witness_RamRoundTrip : (at4 true 1#8 3#8).launch.wf = true ∧ (at4 true 1#8 3#8).cfg.inRam 0xA000#16 = true ∧
    Mem.wf .ram (at4 true 1#8 3#8).launch.ramLen (at4 true 1#8 3#8).ram = true ∧ (at4 true 1#8 3#8).ramEnable = true ∧
    0 < (at4 true 1#8 3#8).launch.ramBanks := by decide
/-- A sequence with a store to index 0, read back by the enabled read. -/
theorem witness_RamReadsTheLastStore :
    Mem.wf .ram (at4 true 1#8 0#8).launch.ramLen (at4 true 1#8 0#8).ram = true ∧
    lastStore 0 [0x1A00011#26] (at4 true 1#8 0#8) = some 0x11#8 ∧
    ∃ t, foldWords [0x1A00011#26] (at4 true 1#8 0#8) = .next t ∧ t.ramSel = true ∧ t.ramIndex 0xA000#16 = 0 ∧
      ∃ u, exec (.rdRam 0xA000#16) t = .next u := ⟨by decide, by decide, _, rfl, by decide, by decide, _, rfl⟩
theorem witness_PowerForgetsTheRegisters : (at4 true 7#8 3#8).launch.wf = true ∧
    (at4 true 7#8 3#8).launch = State.reset.launch ∧ (at4 true 7#8 3#8).ram = State.reset.ram := by decide
theorem witness_ConstructionIsThePowerState : Launch.ref.wf = true ∧ launchV10.wf = true := by decide
theorem witness_ResetBankIsTheRemappedZero : launchV10.wf = true ∧ launchV10.cfg.inRomSel 0x2000#16 = true := by decide
theorem witness_RamSurvivesPower : (at4 true 1#8 3#8).launch.wf = true ∧ 0 < (at4 true 1#8 3#8).launch.ramBanks ∧
    (at4 true 1#8 3#8).cfg.inRam 0xBFFF#16 = true ∧ (at4 true 1#8 3#8).cfg.inRamEn 0x1FFF#16 = true ∧
    (at4 true 1#8 3#8).cfg.inRamSel 0x5FFF#16 = true ∧ enables (at4 true 1#8 3#8).cfg 0xFA#8 = true := by decide
/-- A state with registers off their reset values, a listed byte and a word waiting meets the invariant, and steps. -/
theorem witness_StepKeepsTheInvariant :
    ({ at4 true 31#8 3#8 with ram := [(0x7FFF, 0x33#8)], bus := [0x1BFFF44#26] } : State).Inv ∧
    ∃ t, step { at4 true 31#8 3#8 with ram := [(0x7FFF, 0x33#8)], bus := [0x1BFFF44#26] } = .next t :=
  ⟨⟨by decide, by decide, by decide, by decide, by decide, by decide⟩, _, rfl⟩
theorem witness_ConstructionMeetsTheInvariant : highLaunch.wf = true ∧ Mem.wf .rom highLaunch.romLen highLaunch.rom = true ∧
    Mem.wf .ram highLaunch.ramLen [(0, 0#8)] = true := by decide
/-- Every decoded operation has a state it completes in: what the whole-machine statements and the frames assume. -/
theorem witness_every_operation_completes :
    (∃ t, exec (.rdRom0 0x0000#16) State.reset = .next t) ∧ (∃ t, exec (.rdRomX 0x4000#16) State.reset = .next t) ∧
    (∃ t, exec (.rdRam 0xA000#16) State.reset = .next t) ∧ (∃ t, exec (.rdForeign 0x8000#16) State.reset = .next t) ∧
    (∃ t, exec (.wrRamen 0x0000#16 0x0A#8) State.reset = .next t) ∧
    (∃ t, exec (.wrRomsel 0x2000#16 2#8) State.reset = .next t) ∧
    (∃ t, exec (.wrRamsel 0x4000#16 2#8) State.reset = .next t) ∧ (∃ t, exec (.wrRam 0xA000#16 2#8) State.reset = .next t) ∧
    (∃ t, exec (.wrIgn 0x6000#16 2#8) State.reset = .next t) ∧ (∃ t, exec (.wrForeign 0x8000#16 2#8) State.reset = .next t) ∧
    ∃ t, exec .power State.reset = .next t :=
  ⟨⟨_, rfl⟩, ⟨_, rfl⟩, ⟨_, rfl⟩, ⟨_, rfl⟩, ⟨_, rfl⟩, ⟨_, rfl⟩, ⟨_, rfl⟩, ⟨_, rfl⟩, ⟨_, rfl⟩, ⟨_, rfl⟩, _, rfl⟩
/-- P2 steps 4 to 6 as a sequence: the histories and folds have something to speak of. -/
theorem witness_folds : ∃ t, foldWords [0x100000A#26, 0x0A00000#26, 0x1A00011#26] State.reset = .next t ∧
    t.ramEnable = true ∧ t.ramByte 0 = 0x11#8 := ⟨_, rfl, by decide, by decide⟩
/-- P2 steps 2 and 3, and 17 and 18: RAM disabled, and no word opens the gate. -/
theorem witness_DisabledRamIsUntouched : State.reset.ramEnable = false ∧
    (∀ w ∈ [0x1A00011#26, 0x100000B#26, 0x1A00099#26], opensGate State.reset.cfg w = false) ∧
    ∃ t, foldWords [0x1A00011#26, 0x100000B#26, 0x1A00099#26] State.reset = .next t := by
  refine ⟨by decide, fun w hw => ?_, _, rfl⟩
  simp only [List.mem_cons, List.not_mem_nil, or_false] at hw
  rcases hw with rfl | rfl | rfl <;> decide
theorem witness_NoForeignDrawsNothing : NoForeign State.reset.cfg [0x100000A#26, 0x0A00000#26] ∧
    State.reset.launch = (State.reset.countDraw).launch ∧ State.reset.snapshot = (State.reset.countDraw).snapshot ∧
    State.reset.out = (State.reset.countDraw).out ∧
    (∃ t, foldWords [0x100000A#26, 0x0A00000#26] State.reset = .next t) ∧
    ∃ t, foldWords [0x100000A#26, 0x0A00000#26] State.reset.countDraw = .next t := by
  refine ⟨fun w hw => ?_, rfl, rfl, rfl, ⟨_, rfl⟩, _, rfl⟩
  simp only [List.mem_cons, List.not_mem_nil, or_false] at hw
  rcases hw with rfl | rfl <;> decide

end Sys2Proof.Tests
end

