-- ==== Sys2Proof/Proofs/State.lean ====
section
/-! PROOFS. What one step can do, said once, and that neither an operation nor a step changes the launch (10_state.md, R29). -/

namespace Sys2Proof.Machine

theorem step_of_bus_nil {s : State} (h : s.bus = []) : step s = s.idle := by
  rw [step, State.fetch_nil h]

theorem step_of_bus_cons {s : State} {w : TWord} {ws : List TWord} (h : s.bus = w :: ws) :
    step s = exec (decode s.cfg w) (s.setBus ws) := by
  rw [step, State.fetch_cons h]

/-- The inversion of `step`: it is idle on an empty bus, or runs the operation the next word decodes to. -/
theorem step_next_cases {s t : State} (h : step s = .next t) :
    (s.bus = [] ∧ s.launch.wf = true ∧ s = t) ∨
      ∃ w ws, s.bus = w :: ws ∧ exec (decode s.cfg w) (s.setBus ws) = .next t := by
  cases hb : s.bus with
  | nil =>
    rw [step_of_bus_nil hb] at h
    exact .inl ⟨rfl, State.idle_next_iff.mp h⟩
  | cons w ws =>
    rw [step_of_bus_cons hb] at h
    exact .inr ⟨w, ws, rfl, h⟩

theorem exec_keeps_launch {i : Instr} {s t : State} (h : exec i s = .next t) : t.launch = s.launch := by
  obtain ⟨-, -, -, rfl⟩ := exec_next_iff.mp h
  exact effect_launch i s

theorem step_keeps_launch {s t : State} (h : step s = .next t) : t.launch = s.launch := by
  obtain ⟨-, -, rfl⟩ | ⟨w, ws, -, hexec⟩ := step_next_cases h
  · rfl
  · exact (exec_keeps_launch hexec).trans (State.setBus_launch s ws)

/-- Settles O47: an operation's effect writes no field of the launch, and a step is idle or runs one operation. -/
theorem launchNeverChanges : Obligations.LaunchNeverChanges :=
  ⟨fun _ _ _ => exec_keeps_launch, fun _ _ => step_keeps_launch⟩

end Sys2Proof.Machine
end

