-- ==== Sys2Proof/Proofs/Memory.lean ====
section
/-! PROOFS. The open-bus byte and the RAM image under a sequence of operations (20_memory.md, R52 and R61). -/

namespace Sys2Proof.Machine

/-! ### The open-bus byte -/

/-- No check on the operands reads the open-bus byte. -/
theorem instr_wf_openBus (i : Instr) (c : Cfg) (v : Byte) : i.wf { c with openBus := v } = i.wf c := by
  cases i <;> rfl

/-- A gated store is discarded whatever the open-bus byte is, and an open one never reads it. -/
theorem State.ramWindowStore_openBus (s : State) (a : Addr) (d v : Byte) :
    (s.withCfg { s.cfg with openBus := v }).ramWindowStore a d =
      (s.ramWindowStore a d).withCfg { s.cfg with openBus := v } := by
  have hsel : (s.withCfg { s.cfg with openBus := v }).ramSel = s.ramSel := rfl
  cases h : s.ramSel with
  | true => rw [State.ramWindowStore_open h, State.ramWindowStore_open (hsel.trans h)]; rfl
  | false => rw [State.ramWindowStore_closed h, State.ramWindowStore_closed (hsel.trans h)]

/-- Only `RD_RAM` reads the open-bus byte: every other effect commutes with a change of it. -/
theorem effect_openBus {i : Instr} (h : ∀ a, i ≠ .rdRam a) (s : State) (v : Byte) :
    effect i (s.withCfg { s.cfg with openBus := v }) = (effect i s).withCfg { s.cfg with openBus := v } := by
  cases i with
  | rdRam a => exact absurd rfl (h a)
  | wrRam a d => exact congrArg State.complete (s.ramWindowStore_openBus a d v)
  | _ => rfl

theorem exec_openBus {i : Instr} {s t : State} (h : ∀ a, i ≠ .rdRam a) (hexec : exec i s = .next t) (v : Byte) :
    exec i (s.withCfg { s.cfg with openBus := v }) = .next (t.withCfg { s.cfg with openBus := v }) := by
  obtain ⟨hr, hl, hi, rfl⟩ := exec_next_iff.mp hexec
  exact exec_next_iff.mpr ⟨hr, hl, (instr_wf_openBus i s.cfg v).trans hi, effect_openBus h s v⟩

/-- A gated-off read of the RAM window delivers the open-bus byte (R52). -/
theorem exec_rdRam_closed {s : State} {a : Addr} (hl : s.launch.wf = true) (ha : s.cfg.inRam a = true)
    (hsel : s.ramSel = false) : exec (.rdRam a) s = .next (s.deliver s.cfg.openBus) := by
  rw [← State.ramWindowByte_closed hsel a]
  exact exec_of_legal Instr.noConfusion hl ha

/-- Settles O21: the gate reads neither bank register nor the RAM, and only the effect of `RD_RAM` reads `openBus`. -/
theorem openBusOnlyInTheRamWindow : Obligations.OpenBusOnlyInTheRamWindow :=
  ⟨fun s _ r b m hl ha hsel =>
    exec_rdRam_closed (s := { s with romBank := r, ramBank := b, ram := m }) hl ha hsel,
  fun _ _ _ v h hexec => exec_openBus h hexec v⟩

/-! ### The RAM image -/

/-- The index of an access to the RAM window is inside the image (R50, R100). -/
theorem State.ramIndex_lt {s : State} {a : Addr} (hl : s.launch.wf = true) (ha : s.cfg.inRam a = true)
    (hb : 0 < s.launch.ramBanks) : s.ramIndex a < s.launch.ramLen := by
  have hbank : s.effRamBank + 1 ≤ s.launch.ramBanks := Nat.mod_lt _ hb
  have hoff : windowOffset a s.cfg.ramBase < s.cfg.ramBankSize := by
    obtain ⟨hlo, hhi⟩ := inWin_iff.mp ha
    unfold windowOffset
    omega
  calc s.ramIndex a
      < s.effRamBank * s.cfg.ramBankSize + s.cfg.ramBankSize := Nat.add_lt_add_left hoff _
    _ = (s.effRamBank + 1) * s.cfg.ramBankSize := (Nat.succ_mul _ _).symm
    _ ≤ s.launch.ramBanks * s.cfg.ramBankSize := Nat.mul_le_mul_right _ hbank
    _ = s.launch.ramLen := (Launch.ramLen_eq hl).symm

/-- No operation but `WR_RAM` changes the RAM. -/
theorem effect_ram_of_ne_wrRam {i : Instr} (h : ∀ a d, i ≠ .wrRam a d) (s : State) : (effect i s).ram = s.ram := by
  cases i with
  | wrRam a d => exact absurd rfl (h a d)
  | _ => rfl

/-- Every operation keeps the RAM image canonical (I-4 of R36). -/
theorem exec_keeps_ramCanonical {i : Instr} {s t : State} (hexec : exec i s = .next t)
    (hm : Mem.wf .ram s.launch.ramLen s.ram = true) : Mem.wf .ram t.launch.ramLen t.ram = true := by
  obtain ⟨-, hl, hi, rfl⟩ := exec_next_iff.mp hexec
  rw [effect_launch]
  by_cases hw : ∃ a d, i = .wrRam a d
  · obtain ⟨a, d, rfl⟩ := hw
    rw [effect, State.complete_ram, State.ramWindowStore_ram]
    split
    · next hsel => exact Mem.wf_write hm (State.ramIndex_lt hl hi (s.ramSel_iff.mp hsel).2) d
    · exact hm
  · rw [effect_ram_of_ne_wrRam (by simpa using hw)]
    exact hm

/-- The byte one operation stores to RAM index `k`, if it stores there: the step of `lastStore`. -/
def storedByte (k : Nat) (i : Instr) (s : State) : Option Byte :=
  match i with
  | .wrRam a d => if s.ramSel = true ∧ s.ramIndex a = k then some d else none
  | _ => none

theorem storedByte_of_ne_wrRam {i : Instr} (h : ∀ a d, i ≠ .wrRam a d) (k : Nat) (s : State) :
    storedByte k i s = none := by
  cases i with
  | wrRam a d => exact absurd rfl (h a d)
  | _ => rfl

/-- The last store of a sequence is that of its tail, or the first operation's where the tail stores none. -/
theorem lastStore_cons {k : Nat} {w : TWord} {ws : List TWord} {s u : State}
    (h : exec (decode s.cfg w) s = .next u) :
    lastStore k (w :: ws) s = (lastStore k ws u).or (storedByte k (decode s.cfg w) s) := by
  cases hws : lastStore k ws u <;> simp only [lastStore, h, hws] <;> rfl

/-- A store to the RAM window sets the byte at its index when the gate is open, and no other (R51, R130). -/
theorem State.ramByte_ramWindowStore {s : State} (hm : Mem.wf .ram s.launch.ramLen s.ram = true) (a : Addr) (d : Byte)
    (k : Nat) :
    (s.ramWindowStore a d).ramByte k = if s.ramSel = true ∧ s.ramIndex a = k then d else s.ramByte k := by
  cases hsel : s.ramSel with
  | false => simp [State.ramWindowStore_closed hsel]
  | true =>
    rw [State.ramWindowStore_open hsel]
    by_cases hk : s.ramIndex a = k
    · subst hk; simp [State.ramByte_setRamByte_same hm]
    · simp [hk, State.ramByte_setRamByte_other s (Ne.symm hk)]

/-- A byte of RAM after one operation is the byte the operation stored there, or the byte it was. -/
theorem ramByte_effect {s : State} (hm : Mem.wf .ram s.launch.ramLen s.ram = true) (i : Instr) (k : Nat) :
    (effect i s).ramByte k = (storedByte k i s).getD (s.ramByte k) := by
  by_cases hw : ∃ a d, i = .wrRam a d
  · obtain ⟨a, d, rfl⟩ := hw
    have hbyte : (effect (.wrRam a d) s).ramByte k = (s.ramWindowStore a d).ramByte k := rfl
    rw [hbyte, State.ramByte_ramWindowStore hm, storedByte]
    split <;> rfl
  · have hne : ∀ a d, i ≠ .wrRam a d := by simpa using hw
    rw [storedByte_of_ne_wrRam hne, State.ramByte, effect_ram_of_ne_wrRam hne]
    rfl

/-- R61 for a whole sequence. -/
theorem ramByte_foldWords (k : Nat) {ws : List TWord} {s t : State}
    (hm : Mem.wf .ram s.launch.ramLen s.ram = true) (h : foldWords ws s = .next t) :
    t.ramByte k = (lastStore k ws s).getD (s.ramByte k) := by
  induction ws generalizing s with
  | nil =>
    obtain rfl : s = t := by simpa [foldWords] using h
    rfl
  | cons w ws ih =>
    obtain ⟨u, hexec, hrest⟩ := foldWords_cons_next h
    have htail := ih (exec_keeps_ramCanonical hexec hm) hrest
    obtain ⟨-, -, -, hu⟩ := exec_next_iff.mp hexec
    have hhead := ramByte_effect hm (decode s.cfg w) k
    rw [hu] at hhead
    rw [htail, hhead, lastStore_cons hexec]
    cases lastStore k ws u <;> rfl

/-- A read through the open gate delivers the byte of RAM at `ramIndex` (R51, R112). -/
theorem exec_rdRam_open_out {a : Addr} {t u : State} (hsel : t.ramSel = true) (h : exec (.rdRam a) t = .next u) :
    u.out = some (t.ramByte (t.ramIndex a)) := by
  obtain ⟨-, -, -, rfl⟩ := exec_next_iff.mp h
  rw [effect, State.deliver_out, State.ramWindowByte_open hsel]

/-- Settles O38, by induction on the sequence: each operation keeps the image canonical and sets a byte by `storedByte`.
The index is `ramIndex` in both modes; in `ROM_HIGH` that is the spec's own reading (D9; entry 16). -/
theorem ramReadsTheLastStore : Obligations.RamReadsTheLastStore := by
  intro ws s t k hm hfold
  have hbyte := ramByte_foldWords k hm hfold
  refine ⟨hbyte, fun a u hsel hk hexec => ?_⟩
  rw [exec_rdRam_open_out hsel hexec, hk, hbyte]

end Sys2Proof.Machine
end

