-- ==== Sys2Proof/Proofs/BankArithmetic.lean ====
section
/-! PROOFS. Masking a byte to the width of a bank register (40_decode_and_bank_arithmetic.md, R96). -/

namespace Sys2Proof.Machine

/-- For `n` at most 8 the constant `2^n - 1` fits a byte, so `mask` takes the AND with `2^n - 1` itself. -/
theorem toNat_mask {n : Nat} (hn : n ≤ 8) (d : Byte) : (mask n d).toNat = d.toNat &&& (2 ^ n - 1) := by
  have hpow : 2 ^ n ≤ 2 ^ 8 := Nat.pow_le_pow_right Nat.zero_lt_two hn
  have hfits : 2 ^ n - 1 < 2 ^ 8 := by omega
  rw [mask, BitVec.toNat_and, BitVec.toNat_ofNat, Nat.mod_eq_of_lt hfits]

theorem toNat_mask_eq_mod {n : Nat} (hn : n ≤ 8) (d : Byte) : (mask n d).toNat = d.toNat % 2 ^ n := by
  rw [toNat_mask hn, Nat.and_two_pow_sub_one_eq_mod]

@[simp] theorem mask_zero (d : Byte) : mask 0 d = 0#8 := BitVec.and_zero

@[simp] theorem mask_eight (d : Byte) : mask 8 d = d := BitVec.and_allOnes

/-- Settles O28: the AND with `2^n - 1` keeps the low `n` bits, and a byte has no bit beyond the eighth. -/
theorem maskIsReduction : Obligations.MaskIsReduction :=
  fun _ d hn => ⟨toNat_mask hn d, toNat_mask_eq_mod hn d, mask_zero d, mask_eight d⟩

end Sys2Proof.Machine
end

