-- ==== Sys2Proof/Proofs/Reset.lean ====
section
/-! PROOFS. What `POWER` reads of the state before it (70_reset_and_hazards.md, R171). -/

namespace Sys2Proof.Machine

/-- In a legal launch `POWER` completes from every state: it has no operand to check. -/
theorem exec_power {s : State} (hl : s.launch.wf = true) : exec .power s = .next s.powerOn.complete :=
  exec_of_legal Instr.noConfusion hl rfl

/-- The power-on values come from the launch's `cfg`, and RAM is carried over: nothing else of the state is seen. -/
theorem snapshot_powerOn_congr {s s' : State} (hlaunch : s.launch = s'.launch) (hram : s.ram = s'.ram) :
    s.powerOn.complete.snapshot = s'.powerOn.complete.snapshot := by
  simp [State.snapshot, State.cfg, hlaunch, hram]

/-- `POWER; POWER` is `POWER`: the second writes the values the registers hold, and the Output is already none. -/
theorem powerOn_complete_idem (s : State) : s.powerOn.complete.powerOn.complete = s.powerOn.complete := rfl

/-- Settles O40: both states complete, their snapshots agree through the launch and the RAM, and `POWER` is idempotent. -/
theorem powerForgetsTheRegisters : Obligations.PowerForgetsTheRegisters := by
  intro s s' hl hlaunch hram
  have hl' : s'.launch.wf = true := hlaunch ▸ hl
  have hagain : exec .power s.powerOn.complete = .next s.powerOn.complete := by
    rw [exec_power (s := s.powerOn.complete) hl, powerOn_complete_idem]
  exact ⟨_, _, exec_power hl, exec_power hl', snapshot_powerOn_congr hlaunch hram, rfl, hagain⟩

end Sys2Proof.Machine
end

/-! PROOFS. The decoder and the encoder (30_encoding.md, 40_decode_and_bank_arithmetic.md). -/

namespace Sys2Proof

/-! ### The decode map is exact (R74) -/

/-- The sizes of R9 and the widths of WF5 (R11) that a well-formed `cfg` has. -/
theorem Cfg.wf_bounds {c : Cfg} (h : c.wf = true) :
    0 < c.ramEnSize ∧ 0 < c.romSelSize ∧ 0 < c.ramSelSize ∧
      1 ≤ c.romBankBits ∧ c.romBankBits ≤ 8 ∧ c.ramBankBits ≤ 8 := by
  simp only [Cfg.wf, Cfg.sizesPositive, Cfg.wf5, Bool.and_eq_true, decide_eq_true_eq] at h
  tauto

/-- A window that is not empty holds its own base. -/
theorem inWin_base {b : Addr} {n : Nat} (h : 0 < n) : inWin b b n = true :=
  inWin_iff.mpr ⟨le_rfl, Nat.lt_add_of_pos_right h⟩

/-- Read decode tries the storage windows in order; their disjointness (WF3) makes each condition decide alone. -/
theorem decodeRD_eq {c : Cfg} (hc : c.wf = true) {i : Instr} {a : Addr} (hop : i.op = some (.rd a))
    (hi : i.wf c = true) : decodeRD c a = i := by
  obtain ⟨h0X, h0R, hXR, -⟩ := Cfg.wf_disjoint hc
  cases i with
  | rdRom0 b =>
    obtain rfl : b = a := by simpa [Instr.op] using hop
    exact if_pos hi
  | rdRomX b =>
    obtain rfl : b = a := by simpa [Instr.op] using hop
    have h0 : c.inRom0 b = false := inWin_of_disjoint (windowsDisjoint_symm h0X) hi
    have hX : c.inRomX b = true := hi
    simp [decodeRD, h0, hX]
  | rdRam b =>
    obtain rfl : b = a := by simpa [Instr.op] using hop
    have h0 : c.inRom0 b = false := inWin_of_disjoint (windowsDisjoint_symm h0R) hi
    have hX : c.inRomX b = false := inWin_of_disjoint (windowsDisjoint_symm hXR) hi
    have hR : c.inRam b = true := hi
    simp [decodeRD, h0, hX, hR]
  | rdForeign b =>
    obtain rfl : b = a := by simpa [Instr.op] using hop
    simp only [Instr.wf, Cfg.inStorage, Bool.not_eq_true', Bool.or_eq_false_iff] at hi
    simp [decodeRD, hi]
  | _ => simp [Instr.op] at hop

/-- Write decode tries the register windows and the RAM window in order; their disjointness (WF4) makes each condition
decide alone. -/
theorem decodeWR_eq {c : Cfg} (hc : c.wf = true) {i : Instr} {a : Addr} {d : Byte} (hop : i.op = some (.wr a d))
    (hi : i.wf c = true) : decodeWR c a d = i := by
  obtain ⟨-, -, -, hEO, hEA, hOA, hER, hOR, hAR⟩ := Cfg.wf_disjoint hc
  cases i with
  | wrRamen b e =>
    obtain ⟨rfl, rfl⟩ : b = a ∧ e = d := by simpa [Instr.op] using hop
    exact if_pos hi
  | wrRomsel b e =>
    obtain ⟨rfl, rfl⟩ : b = a ∧ e = d := by simpa [Instr.op] using hop
    have hE : c.inRamEn b = false := inWin_of_disjoint (windowsDisjoint_symm hEO) hi
    have hO : c.inRomSel b = true := hi
    simp [decodeWR, hE, hO]
  | wrRamsel b e =>
    obtain ⟨rfl, rfl⟩ : b = a ∧ e = d := by simpa [Instr.op] using hop
    have hE : c.inRamEn b = false := inWin_of_disjoint (windowsDisjoint_symm hEA) hi
    have hO : c.inRomSel b = false := inWin_of_disjoint (windowsDisjoint_symm hOA) hi
    have hA : c.inRamSel b = true := hi
    simp [decodeWR, hE, hO, hA]
  | wrRam b e =>
    obtain ⟨rfl, rfl⟩ : b = a ∧ e = d := by simpa [Instr.op] using hop
    have hE : c.inRamEn b = false := inWin_of_disjoint (windowsDisjoint_symm hER) hi
    have hO : c.inRomSel b = false := inWin_of_disjoint (windowsDisjoint_symm hOR) hi
    have hA : c.inRamSel b = false := inWin_of_disjoint (windowsDisjoint_symm hAR) hi
    have hR : c.inRam b = true := hi
    simp [decodeWR, hE, hO, hA, hR]
  | wrIgn b e =>
    obtain ⟨rfl, rfl⟩ : b = a ∧ e = d := by simpa [Instr.op] using hop
    simp only [Instr.wf, Cfg.inRegister, Bool.and_eq_true, Bool.not_eq_true', Bool.or_eq_false_iff] at hi
    simp [decodeWR, hi]
  | wrForeign b e =>
    obtain ⟨rfl, rfl⟩ : b = a ∧ e = d := by simpa [Instr.op] using hop
    simp only [Instr.wf, Cfg.inStorage, Cfg.inRegister, Bool.and_eq_true, Bool.not_eq_true',
      Bool.or_eq_false_iff] at hi
    simp [decodeWR, hi]
  | _ => simp [Instr.op] at hop

/-- An operation decodes to the decoded operation that stands for it and whose condition holds. -/
theorem decodeOp_eq {c : Cfg} (hc : c.wf = true) {op : Op} {i : Instr} (hop : i.op = some op)
    (hi : i.wf c = true) : decodeOp c op = i := by
  cases op with
  | power => cases i with
    | power => rfl
    | _ => simp [Instr.op] at hop
  | rd a => exact decodeRD_eq hc hop hi
  | wr a d => exact decodeWR_eq hc hop hi

/-- Settles O3: the decoder's answer meets its condition, and by disjointness no other decoded operation does. -/
theorem decodeMapIsExact : Obligations.DecodeMapIsExact := by
  intro c hc op
  refine ⟨fun i => ⟨?_, fun ⟨hop, hi⟩ => decodeOp_eq hc hop hi⟩,
    decodeOp c op, ⟨decodeOp_op c op, decodeOp_wf c op⟩, fun i ⟨hop, hi⟩ => (decodeOp_eq hc hop hi).symm⟩
  rintro rfl
  exact ⟨decodeOp_op c op, decodeOp_wf c op⟩

/-! ### Words -/

theorem decode_of_parseOp {c : Cfg} {w : TWord} {op : Op} (h : parseOp w = some op) :
    decode c w = decodeOp c op := by
  rw [decode, h]

theorem decode_of_parseOp_none {c : Cfg} {w : TWord} (h : parseOp w = none) : decode c w = .reserved := by
  rw [decode, h]

/-- The decoder reads no more of a word than the operation it spells. -/
theorem decode_congr {c : Cfg} {w w' : TWord} (h : parseOp w = parseOp w') : decode c w = decode c w' := by
  rw [decode, h, decode]

/-- A word decodes to the decoded operation that stands for what it spells and whose condition holds. -/
theorem decode_eq {c : Cfg} (hc : c.wf = true) {w : TWord} {i : Instr} (hop : parseOp w = i.op)
    (hi : i.wf c = true) : decode c w = i := by
  cases hw : parseOp w with
  | some op => rw [decode_of_parseOp hw]; exact decodeOp_eq hc (hop.symm.trans hw) hi
  | none =>
    rw [decode_of_parseOp_none hw]
    cases i with
    | reserved => rfl
    | _ => simp [hw, Instr.op] at hop

/-- The encoder's word spells the operation it was given. -/
theorem parseOp_encode (i : Instr) : parseOp (encode i) = i.op := by
  unfold encode
  cases i.op with
  | some op => exact parseOp_word op
  | none => exact parseOp_reservedWord

/-- Settles O4: the encoder's word spells the operation, which decodes to the one decoded operation that fits. -/
theorem encodeDecodeRoundTrip : Obligations.EncodeDecodeRoundTrip :=
  fun _ i hc hi => decode_eq hc (parseOp_encode i) hi

/-- The decoded operation stands for what the word spells. -/
theorem op_decode (c : Cfg) (w : TWord) : (decode c w).op = parseOp w := by
  cases hw : parseOp w with
  | some op => rw [decode_of_parseOp hw, decodeOp_op]
  | none => rw [decode_of_parseOp_none hw]; rfl

theorem parseOp_canonicalWord (w : TWord) : parseOp (canonicalWord w) = parseOp w := by
  unfold canonicalWord
  cases parseOp w with
  | some op => exact parseOp_word op
  | none => exact parseOp_reservedWord

/-- Settles O5: decoding keeps what the word spells, and the canonical word spells the same. -/
theorem decodeEncodeCanonical : Obligations.DecodeEncodeCanonical := by
  intro c w
  refine ⟨?_, decode_congr (parseOp_canonicalWord w)⟩
  rw [encode, op_decode, canonicalWord]

/-- A word of kind 11 spells no operation (R77). -/
theorem parseOp_of_kind3 {w : TWord} (h : fieldKind w = 3#2) : parseOp w = none := by
  simp [parseOp, h]

/-- Settles O1: the decoder evaluated on each of the twelve words. -/
theorem sampleWordsDecode : Obligations.SampleWordsDecode :=
  ⟨by decide, by decide, by decide, by decide, by decide, by decide, by decide, by decide, by decide, by decide,
    by decide, by decide⟩

/-! ### The reference decode table (R75) -/

/-- A mask of the bits from `k` on fixes the quotient by `2^k`. -/
theorem toNat_div_of_and_mask {n : Nat} {w m : BitVec n} (k : Nat) (h : w &&& BitVec.allOnes n <<< k = m) :
    w.toNat / 2 ^ k = m.toNat / 2 ^ k := by
  have hshift : w >>> k = m >>> k := by
    ext i hi
    subst h
    by_cases hik : k + i < n
    · simp [hik]
    · simp [hik, BitVec.getLsbD_of_ge w (k + i) (not_lt.mp hik)]
  simpa [BitVec.toNat_ushiftRight, Nat.shiftRight_eq_div_pow] using congrArg BitVec.toNat hshift

theorem fieldKind_toNat (w : TWord) : (fieldKind w).toNat = w.toNat / 2 ^ 24 % 2 ^ 2 := by
  rw [fieldKind, BitVec.extractLsb'_toNat, Nat.shiftRight_eq_div_pow]

theorem fieldAddr_toNat (w : TWord) : (fieldAddr w).toNat = w.toNat / 2 ^ 8 % 2 ^ 16 := by
  rw [fieldAddr, BitVec.extractLsb'_toNat, Nat.shiftRight_eq_div_pow]

theorem fieldKind_eq {w : TWord} {k : BitVec 2} (h : w.toNat / 2 ^ 24 = k.toNat) : fieldKind w = k :=
  BitVec.eq_of_toNat_eq (by rw [fieldKind_toNat, h]; exact Nat.mod_eq_of_lt k.isLt)

/-- A word of kind 00 decodes under `CFG_REF` to the read whose condition its address meets. -/
theorem decode_ref_rd {w : TWord} {i : Instr} (hop : i.op = some (.rd (fieldAddr w))) (hk : w.toNat / 2 ^ 24 = 0)
    (hi : (fieldAddr w).toNat = w.toNat / 2 ^ 8 → i.wf Cfg.ref = true) : decode Cfg.ref w = i := by
  have hkind : fieldKind w = 0#2 := fieldKind_eq hk
  refine decode_eq (by decide) (by simp [parseOp, hkind, hop]) (hi ?_)
  rw [fieldAddr_toNat]
  omega

/-- A word of kind 01 decodes under `CFG_REF` to the write whose condition its address meets. -/
theorem decode_ref_wr {w : TWord} {i : Instr} (hop : i.op = some (.wr (fieldAddr w) (fieldData w)))
    (hk : w.toNat / 2 ^ 24 = 1)
    (hi : (fieldAddr w).toNat = w.toNat / 2 ^ 8 - 2 ^ 16 → i.wf Cfg.ref = true) : decode Cfg.ref w = i := by
  have hkind : fieldKind w = 1#2 := fieldKind_eq hk
  refine decode_eq (by decide) (by simp [parseOp, hkind, hop]) (hi ?_)
  rw [fieldAddr_toNat]
  omega

/-- Membership in each window of `CFG_REF`, as the address ranges of R103. -/
theorem Cfg.ref_windows (a : Addr) :
    Cfg.ref.inRom0 a = decide (a.toNat < 0x4000) ∧
    Cfg.ref.inRomX a = decide (0x4000 ≤ a.toNat ∧ a.toNat < 0x8000) ∧
    Cfg.ref.inRam a = decide (0xA000 ≤ a.toNat ∧ a.toNat < 0xC000) ∧
    Cfg.ref.inRamEn a = decide (a.toNat < 0x2000) ∧
    Cfg.ref.inRomSel a = decide (0x2000 ≤ a.toNat ∧ a.toNat < 0x4000) ∧
    Cfg.ref.inRamSel a = decide (0x4000 ≤ a.toNat ∧ a.toNat < 0x6000) := by
  simp [Cfg.inRom0, Cfg.inRomX, Cfg.inRam, Cfg.inRamEn, Cfg.inRomSel, Cfg.inRamSel, Cfg.ref, inWin]
/-- Settles O2: each mask fixes the kind and the leading address bits, so the address lies in the row's range. -/
theorem referenceDecodeTable : Obligations.ReferenceDecodeTable := by
  intro w
  obtain ⟨h0, hX, hR, hE, hO, hA⟩ := Cfg.ref_windows (fieldAddr w)
  refine ⟨fun h => ?_, fun h => ?_, fun h => ?_, fun h => ?_, fun h => ?_, fun h => ?_, fun h => ?_, fun h => ?_,
    fun h => ?_, fun h => ?_, fun h => ?_, fun h => ?_, fun h => ?_, fun h => ?_⟩
  · have hq : w.toNat / 2 ^ 22 = 0 := toNat_div_of_and_mask 22 h
    exact decode_ref_rd rfl (by omega) fun ha => by simp [Instr.wf, h0]; omega
  · have hq : w.toNat / 2 ^ 22 = 1 := toNat_div_of_and_mask 22 h
    exact decode_ref_rd rfl (by omega) fun ha => by simp [Instr.wf, hX]; omega
  · have hq : w.toNat / 2 ^ 21 = 4 := toNat_div_of_and_mask 21 h
    exact decode_ref_rd rfl (by omega) fun ha => by simp [Instr.wf, Cfg.inStorage, h0, hX, hR]; omega
  · have hq : w.toNat / 2 ^ 21 = 5 := toNat_div_of_and_mask 21 h
    exact decode_ref_rd rfl (by omega) fun ha => by simp [Instr.wf, hR]; omega
  · have hq : w.toNat / 2 ^ 22 = 3 := toNat_div_of_and_mask 22 h
    exact decode_ref_rd rfl (by omega) fun ha => by simp [Instr.wf, Cfg.inStorage, h0, hX, hR]; omega
  · have hq : w.toNat / 2 ^ 21 = 8 := toNat_div_of_and_mask 21 h
    exact decode_ref_wr rfl (by omega) fun ha => by simp [Instr.wf, hE]; omega
  · have hq : w.toNat / 2 ^ 21 = 9 := toNat_div_of_and_mask 21 h
    exact decode_ref_wr rfl (by omega) fun ha => by simp [Instr.wf, hO]; omega
  · have hq : w.toNat / 2 ^ 21 = 10 := toNat_div_of_and_mask 21 h
    exact decode_ref_wr rfl (by omega) fun ha => by simp [Instr.wf, hA]; omega
  · have hq : w.toNat / 2 ^ 21 = 11 := toNat_div_of_and_mask 21 h
    exact decode_ref_wr rfl (by omega) fun ha => by simp [Instr.wf, Cfg.inRegister, h0, hX, hR, hE, hO, hA]; omega
  · have hq : w.toNat / 2 ^ 21 = 12 := toNat_div_of_and_mask 21 h
    exact decode_ref_wr rfl (by omega) fun ha => by
      simp [Instr.wf, Cfg.inStorage, Cfg.inRegister, h0, hX, hR, hE, hO, hA]; omega
  · have hq : w.toNat / 2 ^ 21 = 13 := toNat_div_of_and_mask 21 h
    exact decode_ref_wr rfl (by omega) fun ha => by simp [Instr.wf, hR]; omega
  · have hq : w.toNat / 2 ^ 22 = 7 := toNat_div_of_and_mask 22 h
    exact decode_ref_wr rfl (by omega) fun ha => by
      simp [Instr.wf, Cfg.inStorage, Cfg.inRegister, h0, hX, hR, hE, hO, hA]; omega
  · have hkind : fieldKind w = 2#2 := fieldKind_eq (toNat_div_of_and_mask 24 h)
    exact decode_of_parseOp (op := .power) (by simp [parseOp, hkind])
  · exact decode_of_parseOp_none (parseOp_of_kind3 (fieldKind_eq (toNat_div_of_and_mask 24 h)))

end Sys2Proof

/-! PROOFS. The step, the run, and when an operation is refused (20_memory.md section 4, 60_exceptions.md). -/

namespace Sys2Proof.Machine

/-! ### One step -/

/-- Settles O7: a word on the bus is fetched, decoded and run. -/
theorem stepRunsDecodedOperation : Obligations.StepRunsDecodedOperation :=
  fun _ _ _ hb => step_of_bus_cons hb

/-- Settles O8: a number below `2^26` is presented ahead of the bus, and the step takes it off again. -/
theorem presentedWordRunsNext : Obligations.PresentedWordRunsNext := by
  intro s n hn
  have hmod : n % 2 ^ 32 = n := Nat.mod_eq_of_lt (by omega)
  rw [State.withFetchWord, hmod, State.present_of_lt hn, step_of_bus_cons (State.setBus_bus s _),
    State.setBus_setBus, State.setBus_bus_self]
  rfl

/-- Settles O9: an empty bus leaves the step idle. -/
theorem idleStepKeepsState : Obligations.IdleStepKeepsState :=
  fun _ hl hb => (step_of_bus_nil hb).trans (State.idle_next_iff.mpr ⟨hl, rfl⟩)

theorem exec_reserved (s : State) : exec .reserved s = .refused .reservedWord := rfl

/-- Settles O11: a word of kind 11 decodes to `RESERVED`, which has no effect to run. -/
theorem reservedWordIsRefused : Obligations.ReservedWordIsRefused := by
  refine ⟨exec_reserved, fun s w ws hk hb => ?_⟩
  rw [step_of_bus_cons hb, decode_of_parseOp_none (parseOp_of_kind3 hk), exec_reserved]

/-- The launch is checked before the operands. -/
theorem whenLegal_of_illFormed {s : State} (hl : s.launch.wf = false) (i : Instr) (k : State) :
    whenLegal i s k = .refused .illFormedLaunch :=
  if_pos hl

/-- Settles O12: every operation but `RESERVED`, and the idle step, checks the launch first. -/
theorem illFormedLaunchIsRefused : Obligations.IllFormedLaunchIsRefused := by
  refine fun s hl => ⟨fun i hi => ?_, fun hb => ?_⟩
  · rw [exec_eq_whenLegal hi, whenLegal_of_illFormed hl]
  · rw [step_of_bus_nil hb]
    exact if_pos hl

/-- The decoder gives an operation operands of its condition, so under a well-formed launch it takes effect. -/
theorem exec_decode {s : State} (hl : s.launch.wf = true) {w : TWord} (hw : parseOp w ≠ none) :
    exec (decode s.cfg w) s = .next (effect (decode s.cfg w) s) :=
  exec_of_legal (decode_ne_reserved hw) hl (decode_wf s.cfg w)

/-- Settles O10: `Fault` has no constructor, and a presented operation is legal with the operands decoded. -/
theorem operationsNeverFault : Obligations.OperationsNeverFault := by
  refine ⟨fun _ r => (nomatch r), fun s w ws hl hb hw => ?_⟩
  refine ⟨effect (decode s.cfg w) (s.setBus ws), ?_, effect_bus _ _⟩
  rw [step_of_bus_cons hb]
  exact exec_decode (s := s.setBus ws) hl hw

/-- Only membership of the operands in their window is checked, not where in the window they lie. -/
theorem whenLegal_congr {i i' : Instr} {s : State} (h : i.wf s.cfg = i'.wf s.cfg) (k : State) :
    whenLegal i s k = whenLegal i' s k := by
  rw [whenLegal, h, whenLegal]

/-- Settles O32: the effect of a register write reads its data byte only. -/
theorem registerWindowOffsetIsIgnored : Obligations.RegisterWindowOffsetIsIgnored := by
  refine fun s a a' d => ⟨fun ha ha' => ?_, fun ha ha' => ?_, fun ha ha' => ?_⟩
  · exact whenLegal_congr (i := .wrRamen a d) (i' := .wrRamen a' d) (ha.trans ha'.symm) _
  · exact whenLegal_congr (i := .wrRomsel a d) (i' := .wrRomsel a' d) (ha.trans ha'.symm) _
  · exact whenLegal_congr (i := .wrRamsel a d) (i' := .wrRamsel a' d) (ha.trans ha'.symm) _

/-! ### A run -/

theorem exec_keeps_bus {i : Instr} {s t : State} (h : exec i s = .next t) : t.bus = s.bus := by
  obtain ⟨-, -, -, rfl⟩ := exec_next_iff.mp h
  exact effect_bus i s

theorem foldWords_cons_of_refused {w : TWord} {ws : List TWord} {s : State} {r : Refusal}
    (h : exec (decode s.cfg w) s = .refused r) : foldWords (w :: ws) s = .refused r := by
  rw [foldWords, h]

/-- A sequence presented ahead of what already waits on the bus runs as the fold of its operations (R60): the bus plays
no part in an operation, so the first step of the run and the first operation of the fold answer alike. -/
theorem core_run_eq_foldWords (ws : List TWord) (s : State) :
    core.run ws.length (s.setBus (ws ++ s.bus)) = foldWords ws s := by
  induction ws generalizing s with
  | nil => rfl
  | cons w ws ih =>
    have hstep : step (s.setBus (w :: ws ++ s.bus)) = exec (decode s.cfg w) (s.setBus (ws ++ s.bus)) :=
      step_of_bus_cons (State.setBus_bus s _)
    cases hexec : exec (decode s.cfg w) s with
    | next t =>
      rw [exec_setBus_next _ hexec, ← exec_keeps_bus hexec] at hstep
      rw [foldWords_cons_of_next hexec, ← ih t, ← core_run_succ_of_next hstep, exec_keeps_bus hexec]
      rfl
    | fault r => exact nomatch r
    | refused r =>
      rw [exec_setBus_refused _ hexec] at hstep
      rw [foldWords_cons_of_refused hexec]
      exact core_run_succ_of_refused hstep

/-- Settles O13: the sequence stands ahead of the rest on the bus. -/
theorem runIsTheFoldOfOperations : Obligations.RunIsTheFoldOfOperations :=
  fun ws rest s => core_run_eq_foldWords ws (s.setBus rest)

/-- Under a well-formed launch a sequence of operations completes, with the bus and the launch as they were. -/
theorem foldWords_completes {ws : List TWord} {s : State} (hl : s.launch.wf = true) (hws : AllOps ws) :
    ∃ t, foldWords ws s = .next t ∧ t.bus = s.bus ∧ t.launch = s.launch := by
  induction ws generalizing s with
  | nil => exact ⟨s, rfl, rfl, rfl⟩
  | cons w ws ih =>
    obtain ⟨hw, hws⟩ := List.forall_mem_cons.mp hws
    have hexec := exec_decode hl hw
    obtain ⟨t, hfold, hbus, hlaunch⟩ := ih (s := effect (decode s.cfg w) s) (by rwa [effect_launch]) hws
    exact ⟨t, (foldWords_cons_of_next hexec).trans hfold, hbus.trans (effect_bus _ _),
      hlaunch.trans (effect_launch _ _)⟩

/-- Settles O14: the run is the fold of the operations, each of which completes. -/
theorem runOfOperationsCompletes : Obligations.RunOfOperationsCompletes := by
  intro ws s hl hws
  obtain ⟨t, hfold, hbus, hlaunch⟩ := foldWords_completes (s := s.setBus []) hl hws
  refine ⟨t, ?_, hbus, hlaunch⟩
  have hrun := runIsTheFoldOfOperations ws [] s
  rw [List.append_nil] at hrun
  exact hrun.trans hfold

end Sys2Proof.Machine

/-! PROOFS. The three registers: the values stored in them, who writes them, and their histories
(42_register_writes.md, 10_state.md, 90_conflicts.md C4). -/

namespace Sys2Proof.Machine

/-! ### The enable predicate (R101) -/

theorem enables_iff (c : Cfg) (d : Byte) : enables c d = true ↔ d &&& c.enMask = c.enValue := beq_iff_eq

/-- The predicate of `CFG_REF` is about the low nibble. -/
theorem enables_ref_iff (d : Byte) : enables Cfg.ref d = true ↔ d.toNat % 2 ^ 4 = 10 := by
  rw [enables_iff, ← BitVec.toNat_inj, BitVec.toNat_and, ← Nat.and_two_pow_sub_one_eq_mod]
  rfl

theorem enables_ref_ofNat (n : Nat) : enables Cfg.ref (BitVec.ofNat 8 n) = decide (n % 2 ^ 4 = 10) := by
  rw [Bool.eq_iff_iff, enables_ref_iff, BitVec.toNat_ofNat, Nat.mod_mod_of_dvd n (by decide), decide_eq_true_iff]

/-- Of each 16 numbers in a row 15 have a low nibble other than 0xA. -/
theorem length_disabling_range (k : Nat) :
    ((List.range (16 * k)).filter fun n => !decide (n % 2 ^ 4 = 10)).length = 15 * k := by
  induction k with
  | zero => rfl
  | succ k ih =>
    have hperiod : ((fun n => !decide (n % 2 ^ 4 = 10)) ∘ fun n => 16 * k + n) = fun n => !decide (n % 2 ^ 4 = 10) := by
      funext n
      simp
    rw [Nat.mul_succ, List.range_add, List.filter_append, List.length_append, ih, List.filter_map, List.length_map,
      hperiod]
    rfl

/-- Settles O27: the predicate is the equation; under `CFG_REF` it is one value of the low nibble, so 15 in 16 disable. -/
theorem enablePredicateIsTheLowNibble : Obligations.EnablePredicateIsTheLowNibble := by
  refine ⟨enables_iff, fun d => ?_, ?_⟩
  · rw [enables_ref_iff, ← BitVec.toNat_inj, BitVec.extractLsb'_toNat]
    rfl
  · simp only [enables_ref_ofNat]
    exact length_disabling_range 16

/-- WF6: the value has no bit outside the mask, so it enables RAM itself. -/
theorem enables_enValue {c : Cfg} (h : c.wf6 = true) : enables c c.enValue = true := by
  have hout : c.enValue &&& ~~~c.enMask = 0#8 := by simpa [Cfg.wf6] using h
  have hsplit : c.enValue &&& c.enMask ||| c.enValue &&& ~~~c.enMask = c.enValue := by
    rw [← BitVec.and_or_distrib_left, BitVec.or_not_self, BitVec.and_allOnes]
  rwa [hout, BitVec.or_zero, ← enables_iff] at hsplit

theorem enables_zero {c : Cfg} (h : c.enValue ≠ 0#8) : enables c 0#8 = false := by
  simp [enables, Ne.symm h]

/-- Settles O6: a register window holds its own base, so the expansion decodes to the write of that register. -/
theorem pseudoOperationsReachTheirRegister : Obligations.PseudoOperationsReachTheirRegister := by
  intro c hc
  obtain ⟨hEn, hRom, hRam, -⟩ := Cfg.wf_bounds hc
  have ramen (d : Byte) : decodeOp c (.wr c.ramEnBase d) = .wrRamen c.ramEnBase d :=
    decodeOp_eq hc rfl (inWin_base hEn)
  refine ⟨⟨congrArg some (ramen _), enables_enValue⟩, fun h0 => ⟨?_, enables_zero h0⟩, fun n => ?_, fun n => ?_⟩
  · rw [Pseudo.expand, if_neg h0]
    exact congrArg some (ramen _)
  · exact congrArg some (decodeOp_eq hc rfl (inWin_base hRom))
  · exact congrArg some (decodeOp_eq hc rfl (inWin_base hRam))

/-! ### The values of the bank registers (R96, R97) -/

theorem remap_toNat (c : Cfg) (v : Byte) :
    (remap c v).toNat = if c.zeroRemap = true ∧ v.toNat = 0 then 1 else v.toNat := by
  obtain ⟨hz, rfl, hr⟩ | ⟨hn, hr⟩ := remap_cases c v
  · rw [hr, if_pos ⟨hz, rfl⟩]; rfl
  · rw [hr, if_neg fun ⟨hz, h0⟩ => hn ⟨hz, BitVec.eq_of_toNat_eq h0⟩]

/-- The stored `romBank` in numbers: reduced to the register's width, then the zero remap. -/
theorem romBankValue_toNat {c : Cfg} (hc : c.wf = true) (d : Byte) :
    (romBankValue c d).toNat =
      if c.zeroRemap = true ∧ d.toNat % 2 ^ c.romBankBits = 0 then 1 else d.toNat % 2 ^ c.romBankBits := by
  obtain ⟨-, -, -, -, hbits, -⟩ := Cfg.wf_bounds hc
  rw [romBankValue, remap_toNat, toNat_mask_eq_mod hbits]

theorem ramBankValue_toNat {c : Cfg} (hc : c.wf = true) (d : Byte) :
    (ramBankValue c d).toNat = d.toNat % 2 ^ c.ramBankBits := by
  obtain ⟨-, -, -, -, -, hbits⟩ := Cfg.wf_bounds hc
  exact toNat_mask_eq_mod hbits d

/-- I-1 of R36 for a stored value: the remapped 1 fits because the register has a bit (WF5). -/
theorem romBankValue_lt {c : Cfg} (hc : c.wf = true) (d : Byte) : (romBankValue c d).toNat < 2 ^ c.romBankBits := by
  obtain ⟨-, -, -, hbit, -⟩ := Cfg.wf_bounds hc
  rw [romBankValue_toNat hc]
  split
  · exact Nat.one_lt_two_pow (by omega)
  · exact Nat.mod_lt _ (Nat.two_pow_pos _)

/-- I-2 of R36 for a stored value. -/
theorem romBankValue_ne_zero {c : Cfg} (hz : c.zeroRemap = true) (d : Byte) : romBankValue c d ≠ 0#8 := by
  obtain ⟨-, -, hr⟩ | ⟨hn, hr⟩ := remap_cases c (mask c.romBankBits d)
  · rw [romBankValue, hr]; decide
  · rw [romBankValue, hr]; exact fun h0 => hn ⟨hz, h0⟩

/-- I-3 of R36 for a stored value. -/
theorem ramBankValue_lt {c : Cfg} (hc : c.wf = true) (d : Byte) : (ramBankValue c d).toNat < 2 ^ c.ramBankBits := by
  rw [ramBankValue_toNat hc]
  exact Nat.mod_lt _ (Nat.two_pow_pos _)

/-- The power-on value is the remapped 0 (C1). -/
theorem romBankValue_zero (c : Cfg) : romBankValue c 0#8 = romBankPower c := by
  simp [romBankValue, mask, remap, romBankPower]

theorem ramBankValue_zero (c : Cfg) : ramBankValue c 0#8 = 0#8 := BitVec.zero_and

/-! ### The register writes -/

/-- Settles O29: in its window the operation is legal, and the latch takes the enable predicate of the byte. -/
theorem wrRamenLoadsTheLatch : Obligations.WrRamenLoadsTheLatch :=
  fun _ _ _ hl ha => exec_of_legal Instr.noConfusion hl ha

/-- Settles O30: the value stored is `romBankValue` of the byte. -/
theorem wrRomselLoadsTheBank : Obligations.WrRomselLoadsTheBank :=
  fun s _ d hl ha => ⟨romBankValue s.cfg d, romBankValue_toNat (Launch.wf_parts hl).1 d,
    exec_of_legal Instr.noConfusion hl ha⟩

/-- Settles O31: the value stored is `ramBankValue` of the byte. -/
theorem wrRamselLoadsTheBank : Obligations.WrRamselLoadsTheBank :=
  fun s _ d hl ha => ⟨ramBankValue s.cfg d, ramBankValue_toNat (Launch.wf_parts hl).1 d,
    exec_of_legal Instr.noConfusion hl ha⟩

/-! ### Who writes each register -/

/-- `ramEnable` after one operation: the step of `enableHistory`. -/
def nextRamEnable (c : Cfg) (i : Instr) (e : Bool) : Bool :=
  match i with
  | .power => false
  | .wrRamen _ d => enables c d
  | _ => e

/-- `romBank` after one operation: the step of `romBankHistory`. -/
def nextRomBank (c : Cfg) (i : Instr) (v : Byte) : Byte :=
  match i with
  | .power => romBankPower c
  | .wrRomsel _ d => romBankValue c d
  | _ => v

/-- `ramBank` after one operation: the step of `ramBankHistory`. -/
def nextRamBank (c : Cfg) (i : Instr) (v : Byte) : Byte :=
  match i with
  | .power => 0#8
  | .wrRamsel _ d => ramBankValue c d
  | _ => v

@[simp] theorem effect_ramEnable (i : Instr) (s : State) :
    (effect i s).ramEnable = nextRamEnable s.cfg i s.ramEnable := by
  cases i with
  | wrRam a d => exact State.ramWindowStore_ramEnable s a d
  | _ => rfl

@[simp] theorem effect_romBank (i : Instr) (s : State) :
    (effect i s).romBank = nextRomBank s.cfg i s.romBank := by
  cases i with
  | wrRam a d => exact State.ramWindowStore_romBank s a d
  | _ => rfl

@[simp] theorem effect_ramBank (i : Instr) (s : State) :
    (effect i s).ramBank = nextRamBank s.cfg i s.ramBank := by
  cases i with
  | wrRam a d => exact State.ramWindowStore_ramBank s a d
  | _ => rfl

/-- `romBank` is kept, or is loaded as a `WR_ROMSEL` loads it. -/
theorem nextRomBank_cases (c : Cfg) (i : Instr) (v : Byte) :
    nextRomBank c i v = v ∨ ∃ d, nextRomBank c i v = romBankValue c d := by
  cases i with
  | power => exact .inr ⟨0#8, (romBankValue_zero c).symm⟩
  | wrRomsel a d => exact .inr ⟨d, rfl⟩
  | _ => exact .inl rfl

/-- `ramBank` is kept, or is loaded as a `WR_RAMSEL` loads it. -/
theorem nextRamBank_cases (c : Cfg) (i : Instr) (v : Byte) :
    nextRamBank c i v = v ∨ ∃ d, nextRamBank c i v = ramBankValue c d := by
  cases i with
  | power => exact .inr ⟨0#8, (ramBankValue_zero c).symm⟩
  | wrRamsel a d => exact .inr ⟨d, rfl⟩
  | _ => exact .inl rfl

/-- Settles O48: the latch after the effect, constructor by constructor. -/
theorem ramEnableIsWrittenByTwoOperations : Obligations.RamEnableIsWrittenByTwoOperations := by
  intro i s t hexec
  obtain ⟨-, -, -, rfl⟩ := exec_next_iff.mp hexec
  rw [effect_ramEnable]
  cases i <;> rfl

/-- Settles O49: the bank registers after the effect, constructor by constructor. -/
theorem bankRegistersAreWrittenByTwoOperations : Obligations.BankRegistersAreWrittenByTwoOperations := by
  intro i s t hexec
  obtain ⟨-, -, -, rfl⟩ := exec_next_iff.mp hexec
  rw [effect_romBank, effect_ramBank]
  cases i <;> exact ⟨rfl, rfl⟩

/-! ### Histories -/

/-- A field that every operation updates by `next` ends a sequence at the left fold of `next`. -/
theorem foldWords_field {α : Type} {field : State → α} {next : Cfg → Instr → α → α}
    (heffect : ∀ i s, field (effect i s) = next s.cfg i (field s)) {ws : List TWord} {s t : State}
    (h : foldWords ws s = .next t) :
    field t = ws.foldl (fun v w => next s.cfg (decode s.cfg w) v) (field s) := by
  induction ws generalizing s with
  | nil =>
    obtain rfl : s = t := by simpa [foldWords] using h
    rfl
  | cons w ws ih =>
    obtain ⟨u, hexec, hrest⟩ := foldWords_cons_next h
    have hcfg : u.cfg = s.cfg := congrArg Launch.cfg (exec_keeps_launch hexec)
    have htail := ih hrest
    obtain ⟨-, -, -, rfl⟩ := exec_next_iff.mp hexec
    rwa [hcfg, heffect] at htail

theorem enableHistory_eq_foldl (c : Cfg) (ws : List TWord) (e : Bool) :
    enableHistory c ws e = ws.foldl (fun v w => nextRamEnable c (decode c w) v) e := by
  induction ws generalizing e with
  | nil => rfl
  | cons w ws ih => exact ih _

theorem romBankHistory_eq_foldl (c : Cfg) (ws : List TWord) (v : Byte) :
    romBankHistory c ws v = ws.foldl (fun v w => nextRomBank c (decode c w) v) v := by
  induction ws generalizing v with
  | nil => rfl
  | cons w ws ih => exact ih _

theorem ramBankHistory_eq_foldl (c : Cfg) (ws : List TWord) (v : Byte) :
    ramBankHistory c ws v = ws.foldl (fun v w => nextRamBank c (decode c w) v) v := by
  induction ws generalizing v with
  | nil => rfl
  | cons w ws ih => exact ih _

/-- Settles O51: the history is the fold of the latch's updates. -/
theorem enableLatchIsItsHistory : Obligations.EnableLatchIsItsHistory := by
  intro ws s t hfold
  rw [enableHistory_eq_foldl]
  exact foldWords_field (field := State.ramEnable) effect_ramEnable hfold

/-- Settles O52: each history is the fold of its register's updates. -/
theorem bankRegistersAreTheirHistory : Obligations.BankRegistersAreTheirHistory := by
  intro ws s t hfold
  rw [romBankHistory_eq_foldl, ramBankHistory_eq_foldl]
  exact ⟨foldWords_field (field := State.romBank) effect_romBank hfold,
    foldWords_field (field := State.ramBank) effect_ramBank hfold⟩

/-! ### The invariant (R36) -/

/-- Every operation keeps the invariant: the RAM stays canonical, and a bank register keeps its value or takes a stored
one, which meets I-1 to I-3. -/
theorem exec_keeps_inv {i : Instr} {s t : State} (hs : s.Inv) (hexec : exec i s = .next t) : t.Inv := by
  have hram := exec_keeps_ramCanonical hexec hs.ramCanonical
  obtain ⟨-, hl, -, rfl⟩ := exec_next_iff.mp hexec
  have hc : s.cfg.wf = true := (Launch.wf_parts hl).1
  have hcfg : (effect i s).cfg = s.cfg := congrArg Launch.cfg (effect_launch i s)
  constructor
  case launchWf => rwa [effect_launch]
  case romCanonical => rw [effect_launch]; exact hs.romCanonical
  case ramCanonical => exact hram
  case romBankFits =>
    rw [hcfg, effect_romBank]
    obtain h | ⟨d, h⟩ := nextRomBank_cases s.cfg i s.romBank <;> rw [h]
    · exact hs.romBankFits
    · exact romBankValue_lt hc d
  case romBankNonzero =>
    rw [hcfg, effect_romBank]
    intro hz
    obtain h | ⟨d, h⟩ := nextRomBank_cases s.cfg i s.romBank <;> rw [h]
    · exact hs.romBankNonzero hz
    · exact romBankValue_ne_zero hz d
  case ramBankFits =>
    rw [hcfg, effect_ramBank]
    obtain h | ⟨d, h⟩ := nextRamBank_cases s.cfg i s.ramBank <;> rw [h]
    · exact hs.ramBankFits
    · exact ramBankValue_lt hc d

/-- The invariant does not speak of the bus. -/
theorem State.Inv.setBus {s : State} (h : s.Inv) (ws : List TWord) : (s.setBus ws).Inv :=
  ⟨h.launchWf, h.romCanonical, h.ramCanonical, h.romBankFits, h.romBankNonzero, h.ramBankFits⟩

/-- Settles O44: a step is idle or runs one operation, and every operation keeps the invariant. -/
theorem stepKeepsTheInvariant : Obligations.StepKeepsTheInvariant := by
  intro s t hs hstep
  obtain ⟨-, -, rfl⟩ | ⟨w, ws, -, hexec⟩ := step_next_cases hstep
  · exact hs
  · exact exec_keeps_inv (hs.setBus ws) hexec

/-- Settles O45: the power-on values are the stored values of 0, which meet I-1 to I-3. -/
theorem constructionMeetsTheInvariant : Obligations.ConstructionMeetsTheInvariant := by
  intro l m hl hrom hram
  have hc : l.cfg.wf = true := (Launch.wf_parts hl).1
  constructor
  case launchWf => exact hl
  case romCanonical => exact hrom
  case ramCanonical => exact hram
  case romBankFits =>
    rw [State.construct_romBank, ← romBankValue_zero]
    exact romBankValue_lt hc 0#8
  case romBankNonzero =>
    rw [State.construct_romBank, ← romBankValue_zero]
    exact fun hz => romBankValue_ne_zero hz 0#8
  case ramBankFits => exact Nat.two_pow_pos _

/-- Settles O46: the reset state is constructed from a well-formed launch with nothing listed in memory. That its `romBank`
is not 0 under `zeroRemap` (I-2) rests on C1, D7 and D24 (entry 14). -/
theorem resetMeetsTheInvariant : Obligations.ResetMeetsTheInvariant :=
  constructionMeetsTheInvariant Launch.ref [] (by decide) (Mem.wf_nil _ _) (Mem.wf_nil _ _)

end Sys2Proof.Machine

/-! PROOFS. Reads, the RAM window and the writes that change nothing (20_memory.md, 41_read_operations.md,
43_ram_write_and_ignored_writes.md). -/

namespace Sys2Proof.Machine

/-! ### Indices (R46 to R50) -/

theorem windowOffset_lt {a b : Addr} {n : Nat} (h : inWin a b n = true) : windowOffset a b < n := by
  obtain ⟨hlo, hhi⟩ := inWin_iff.mp h
  unfold windowOffset
  omega

theorem State.romIndex0_eq (s : State) (a : Addr) : s.romIndex0 a = windowOffset a s.cfg.rom0Base := by
  rw [State.romIndex0, Nat.zero_mul, Nat.zero_add]

theorem State.effRomBank_of_ramBank {s : State} (h : s.cfg.ramSelMode = .ramBank) :
    s.effRomBank = s.romBank.toNat % s.launch.romBanks := by
  rw [State.effRomBank, State.romBankRaw, h]

theorem State.effRomBank_of_romHigh {s : State} (h : s.cfg.ramSelMode = .romHigh) :
    s.effRomBank = (s.ramBank.toNat * 2 ^ s.cfg.romBankBits + s.romBank.toNat) % s.launch.romBanks := by
  rw [State.effRomBank, State.romBankRaw, h]

theorem State.effRamBank_of_ramBank {s : State} (h : s.cfg.ramSelMode = .ramBank) :
    s.effRamBank = s.ramBank.toNat % s.launch.ramBanks := by
  rw [State.effRamBank, State.ramBankRaw, h]

theorem State.effRamBank_of_romHigh {s : State} (h : s.cfg.ramSelMode = .romHigh) : s.effRamBank = 0 := by
  rw [State.effRamBank, State.ramBankRaw, h]
  exact Nat.zero_mod _

/-- The index of a read of the fixed window is inside bank 0. -/
theorem State.romIndex0_lt {s : State} {a : Addr} (ha : s.cfg.inRom0 a = true) :
    s.romIndex0 a < s.cfg.romBankSize := by
  rw [State.romIndex0_eq]
  exact windowOffset_lt ha

/-- The index of a read of the switchable window is inside the image, which is whole banks. -/
theorem State.romIndexX_lt {s : State} {a : Addr} (hl : s.launch.wf = true) (ha : s.cfg.inRomX a = true) :
    s.romIndexX a < s.launch.romLen := by
  obtain ⟨hlen, hbanks, -⟩ := Launch.romLen_eq hl
  have hbank : s.effRomBank + 1 ≤ s.launch.romBanks := Nat.mod_lt _ hbanks
  calc s.romIndexX a
      < s.effRomBank * s.cfg.romBankSize + s.cfg.romBankSize := Nat.add_lt_add_left (windowOffset_lt ha) _
    _ = (s.effRomBank + 1) * s.cfg.romBankSize := (Nat.succ_mul _ _).symm
    _ ≤ s.launch.romBanks * s.cfg.romBankSize := Nat.mul_le_mul_right _ hbank
    _ = s.launch.romLen := hlen.symm

/-- A well-formed ROM holds bank 0. -/
theorem Launch.romBankSize_le {l : Launch} (hl : l.wf = true) : l.cfg.romBankSize ≤ l.romLen := by
  obtain ⟨hlen, hbanks, -⟩ := Launch.romLen_eq hl
  rw [hlen]
  exact Nat.le_mul_of_pos_left _ hbanks

/-- `ramAddr` gives an index only through the open gate (R53). -/
theorem ite_ramSel_eq_some {s : State} {k n : Nat} (h : (if s.ramSel then some k else none) = some n) :
    s.ramSel = true ∧ k = n := by
  simpa using h

/-- Settles O25: each window's offset is below its bank's size, and each effective bank below the bank count. -/
theorem indicesStayInBounds : Obligations.IndicesStayInBounds := by
  intro s i n hl hi
  have ram {a : Addr} (ha : s.cfg.inRam a = true)
      (h : (if s.ramSel then some (s.ramIndex a) else none) = some n) : n < s.launch.ramLen := by
    obtain ⟨hsel, rfl⟩ := ite_ramSel_eq_some h
    exact State.ramIndex_lt hl ha (s.ramSel_iff.mp hsel).2
  cases i with
  | rdRom0 a =>
    refine ⟨fun h => ?_, nofun⟩
    obtain rfl : s.romIndex0 a = n := Option.some.inj h
    exact (State.romIndex0_lt hi).trans_le (Launch.romBankSize_le hl)
  | rdRomX a =>
    refine ⟨fun h => ?_, nofun⟩
    obtain rfl : s.romIndexX a = n := Option.some.inj h
    exact State.romIndexX_lt hl hi
  | rdRam a => exact ⟨nofun, ram hi⟩
  | wrRam a d => exact ⟨nofun, ram hi⟩
  | _ => exact ⟨nofun, nofun⟩

/-! ### The defined reads (R110 to R114) -/

/-- Settles O15: the offset is taken from the window's base, in bank 0. -/
theorem rdRom0Returns : Obligations.RdRom0Returns := by
  intro s a hl ha
  have hexec : exec (.rdRom0 a) s = .next (s.deliver (s.romByte (s.romIndex0 a))) :=
    exec_of_legal Instr.noConfusion hl ha
  rw [hexec, State.romIndex0_eq]
  rfl

/-- Settles O16: the index reads neither a register nor the mode. -/
theorem fixedWindowIsNeverSwitched : Obligations.FixedWindowIsNeverSwitched := by
  intro s t a e r b m hexec
  obtain ⟨-, hl, ha, rfl⟩ := exec_next_iff.mp hexec
  exact ⟨State.romIndex0_lt ha, rfl, _, exec_of_legal Instr.noConfusion hl ha, rfl⟩

theorem exec_rdRomX {s : State} {a : Addr} (hl : s.launch.wf = true) (ha : s.cfg.inRomX a = true) :
    exec (.rdRomX a) s = .next (s.deliver (s.romByte (s.romIndexX a))) :=
  exec_of_legal Instr.noConfusion hl ha

/-- Settles O17: in `RAM_BANK` mode the effective bank is `romBank` reduced. -/
theorem rdRomXReturnsSelectedBank : Obligations.RdRomXReturnsSelectedBank := by
  intro s a hl ha hm
  rw [exec_rdRomX hl ha, State.romIndexX, State.effRomBank_of_ramBank hm]
  rfl

/-- Settles O18: in `ROM_HIGH` mode the effective bank has `ramBank` above `romBank`, reduced. -/
theorem rdRomXReturnsHighBank : Obligations.RdRomXReturnsHighBank := by
  intro s a hl ha hm
  rw [exec_rdRomX hl ha, State.romIndexX, State.effRomBank_of_romHigh hm]
  rfl

theorem exec_rdRam {s : State} {a : Addr} (hl : s.launch.wf = true) (ha : s.cfg.inRam a = true) :
    exec (.rdRam a) s = .next (s.deliver (s.ramWindowByte a)) :=
  exec_of_legal Instr.noConfusion hl ha

theorem State.ramWindowByte_eq (s : State) (a : Addr) :
    s.ramWindowByte a =
      if s.ramEnable = true ∧ 0 < s.launch.ramBanks then s.ramByte (s.ramIndex a) else s.cfg.openBus := by
  simp only [State.ramWindowByte, State.ramSel_iff]

/-- Settles O19: the window's byte, with the effective bank of each mode. -/
theorem rdRamReturns : Obligations.RdRamReturns := by
  intro s a hl ha
  rw [exec_rdRam hl ha, State.ramWindowByte_eq, State.ramIndex]
  cases hm : s.cfg.ramSelMode with
  | ramBank => rw [State.effRamBank_of_ramBank hm]; rfl
  | romHigh => rw [State.effRamBank_of_romHigh hm]; rfl

/-- Each of the three defined reads has a `dout` (R53). -/
theorem State.exists_dout_of_read (s : State) {i : Instr} {a : Addr}
    (h : i = .rdRom0 a ∨ i = .rdRomX a ∨ i = .rdRam a) :
    ∃ b, s.dout i = some b := by
  rcases h with rfl | rfl | rfl <;> exact ⟨_, rfl⟩

/-- An operation with a `dout` delivers it, and does nothing else. -/
theorem effect_of_dout {i : Instr} {s : State} {b : Byte} (h : s.dout i = some b) : effect i s = s.deliver b := by
  cases i with
  | rdRom0 a => exact congrArg s.deliver (Option.some.inj h)
  | rdRomX a => exact congrArg s.deliver (Option.some.inj h)
  | rdRam a => exact congrArg s.deliver (Option.some.inj h)
  | _ => exact nomatch h

/-- The same state with another count of free values drawn, for claims that compare two. -/
def State.withDraws (s : State) (n : Nat) : State := { s with draws := n }

/-- Two states that agree in launch and snapshot differ in the model's own fields only. -/
theorem State.eq_of_agree {s s' : State} (hlaunch : s.launch = s'.launch) (hsnap : s.snapshot = s'.snapshot) :
    s' = ((s.setBus s'.bus).setOut s'.out).withDraws s'.draws := by
  obtain ⟨launch, ramEnable, romBank, ramBank, ram, bus, out, draws⟩ := s
  obtain ⟨launch', ramEnable', romBank', ramBank', ram', bus', out', draws'⟩ := s'
  simp only [State.snapshot, Snapshot.mk.injEq] at hlaunch hsnap
  obtain ⟨rfl, rfl, rfl, rfl⟩ := hsnap
  subst hlaunch
  rfl

/-- `dout` reads the launch, the registers and the RAM only: what a snapshot sees. -/
theorem State.dout_congr {s s' : State} (hlaunch : s.launch = s'.launch) (hsnap : s.snapshot = s'.snapshot)
    (i : Instr) : s.dout i = s'.dout i := by
  rw [State.eq_of_agree hlaunch hsnap]
  cases i <;> rfl

/-- Settles O23: each state delivers its `dout`, which is the same in both. -/
theorem definedReadsArePure : Obligations.DefinedReadsArePure := by
  intro i s s' t t' a hi hlaunch hsnap hexec hexec'
  obtain ⟨b, hb⟩ := s.exists_dout_of_read hi
  obtain ⟨-, -, -, rfl⟩ := exec_next_iff.mp hexec
  obtain ⟨-, -, -, rfl⟩ := exec_next_iff.mp hexec'
  rw [effect_of_dout hb, effect_of_dout ((State.dout_congr hlaunch hsnap i).symm.trans hb)]
  exact ⟨rfl, rfl, rfl⟩

/-- Settles O24: a bank register is seen only through its remainder by the bank count. -/
theorem bankValuesAlias : Obligations.BankValuesAlias := by
  intro s t a v hm
  refine ⟨fun hv hexec => ?_, fun hv hexec => ?_⟩
  · obtain ⟨-, hl, ha, rfl⟩ := exec_next_iff.mp hexec
    have hbank : (s.setRomBank v).effRomBank = s.effRomBank := by
      rw [State.effRomBank_of_ramBank (s := s.setRomBank v) hm, State.effRomBank_of_ramBank hm]
      exact hv
    have hindex : (s.setRomBank v).romIndexX a = s.romIndexX a := by
      rw [State.romIndexX, hbank]
      rfl
    rw [exec_rdRomX (s := s.setRomBank v) hl ha, hindex]
    rfl
  · obtain ⟨-, hl, ha, rfl⟩ := exec_next_iff.mp hexec
    have hbank : (s.setRamBank v).effRamBank = s.effRamBank := by
      rw [State.effRamBank_of_ramBank (s := s.setRamBank v) hm, State.effRamBank_of_ramBank hm]
      exact hv
    have hindex : (s.setRamBank v).ramIndex a = s.ramIndex a := by
      rw [State.ramIndex, hbank]
      rfl
    rw [exec_rdRam (s := s.setRamBank v) hl ha, State.ramWindowByte_eq, hindex, effect, State.ramWindowByte_eq]
    rfl

/-! ### The RAM window (R51, R130) -/

theorem exec_wrRam {s : State} {a : Addr} (d : Byte) (hl : s.launch.wf = true) (ha : s.cfg.inRam a = true) :
    exec (.wrRam a d) s = .next (s.ramWindowStore a d).complete :=
  exec_of_legal Instr.noConfusion hl ha

/-- Settles O20: the gate open, then closed. -/
theorem ramGateGuardsTheWindow : Obligations.RamGateGuardsTheWindow := by
  intro s a d hl ha
  split
  · next h =>
    have hsel : s.ramSel = true := s.ramSel_iff.mpr h
    rw [exec_rdRam hl ha, State.ramWindowByte_open hsel, exec_wrRam d hl ha, State.ramWindowStore_open hsel]
    exact ⟨rfl, rfl⟩
  · next h =>
    have hsel : s.ramSel = false := Bool.eq_false_iff.mpr fun hsel => h (s.ramSel_iff.mp hsel)
    rw [exec_rdRam_closed hl ha hsel, exec_wrRam d hl ha, State.ramWindowStore_closed hsel]
    exact ⟨rfl, rfl⟩

/-- Settles O33: the registers are the store's frame, and the byte read after it is that of `ramByte_ramWindowStore`. -/
theorem wrRamStoresOneByte : Obligations.WrRamStoresOneByte := by
  intro s a d hl ha hm
  refine ⟨_, exec_wrRam d hl ha, State.ramWindowStore_launch s a d, State.ramWindowStore_ramEnable s a d,
    State.ramWindowStore_romBank s a d, State.ramWindowStore_ramBank s a d, rfl, fun k => ?_⟩
  have hbyte : (s.ramWindowStore a d).complete.ramByte k = _ := State.ramByte_ramWindowStore hm a d k
  simpa only [State.ramSel_iff, and_assoc, eq_comm (a := s.ramIndex a)] using hbyte

/-- Settles O37: through the open gate the store sets the byte at the index the read then reads. -/
theorem ramRoundTrip : Obligations.RamRoundTrip := by
  intro s a d hl ha hm hen hbanks
  have hsel : s.ramSel = true := s.ramSel_iff.mpr ⟨hen, hbanks⟩
  have hwrite := exec_wrRam d hl ha
  rw [State.ramWindowStore_open hsel] at hwrite
  have hread := exec_rdRam (s := (s.setRamByte (s.ramIndex a) d).complete) hl ha
  have hout := exec_rdRam_open_out (t := (s.setRamByte (s.ramIndex a) d).complete) hsel hread
  exact ⟨_, _, hwrite, hread, hout.trans (congrArg some (State.ramByte_setRamByte_same hm d))⟩

/-- A store reaches no byte but the one `ramAddr` names, and none when it names none (R53). -/
theorem ramByte_effect_wrRam_other {s : State} {a : Addr} {d : Byte} {k : Nat}
    (h : s.ramAddr (.wrRam a d) ≠ some k) : (effect (.wrRam a d) s).ramByte k = s.ramByte k := by
  have hbyte : (effect (.wrRam a d) s).ramByte k = (s.ramWindowStore a d).ramByte k := rfl
  rw [hbyte]
  cases hsel : s.ramSel with
  | false => rw [State.ramWindowStore_closed hsel]
  | true =>
    rw [State.ramWindowStore_open hsel]
    exact s.ramByte_setRamByte_other (fun hk => h (by simp [State.ramAddr, hsel, hk])) d

/-- Settles O26: a defined read delivers its `dout`, and only a store through the open gate changes a byte. -/
theorem multiplexerOutputsAreUsed : Obligations.MultiplexerOutputsAreUsed := by
  intro i s t hexec
  obtain ⟨-, -, -, rfl⟩ := exec_next_iff.mp hexec
  refine ⟨fun b hb => by rw [effect_of_dout hb, State.deliver_out], fun k hk => ?_⟩
  by_cases hw : ∃ a d, i = .wrRam a d
  · obtain ⟨a, d, rfl⟩ := hw
    have haddr : s.ramAddr (.wrRam a d) = some k := not_not.mp fun h => hk (ramByte_effect_wrRam_other h)
    exact ⟨(ite_ramSel_eq_some haddr).1, haddr⟩
  · have hram : (effect i s).ram = s.ram := effect_ram_of_ne_wrRam (by simpa using hw) s
    exact absurd (congrArg (Mem.read .ram · k) hram) hk

/-! ### Foreign operations and ignored writes (R93, R131) -/

/-- Settles O22: outside the storage windows the operation is legal; its byte is the next draw. -/
theorem rdForeignDrawsFreely : Obligations.RdForeignDrawsFreely := by
  intro s a hl ha
  have hi : (Instr.rdForeign a).wf s.cfg = true := by simp [Instr.wf, ha]
  exact exec_of_legal Instr.noConfusion hl hi

/-- Settles O34: over a ROM window and outside the register windows and the RAM window the operation is legal. -/
theorem wrIgnDoesNothing : Obligations.WrIgnDoesNothing := by
  intro s a d hl hrom hreg hram
  have hi : (Instr.wrIgn a d).wf s.cfg = true := by simp [Instr.wf, hrom, hreg, hram]
  exact exec_of_legal Instr.noConfusion hl hi

/-- Settles O35: outside all six windows the operation is legal. -/
theorem wrForeignDoesNothing : Obligations.WrForeignDoesNothing := by
  intro s a d hl hstorage hreg
  have hi : (Instr.wrForeign a d).wf s.cfg = true := by simp [Instr.wf, hstorage, hreg]
  exact exec_of_legal Instr.noConfusion hl hi

/-- Settles O36: the effects of the two operations, field by field. -/
theorem foreignOperationsKeepTheState : Obligations.ForeignOperationsKeepTheState := by
  refine fun s t a d => ⟨fun hexec => ?_, fun hexec => ?_⟩
  · obtain ⟨-, -, -, rfl⟩ := exec_next_iff.mp hexec
    exact ⟨rfl, rfl, rfl, rfl⟩
  · obtain ⟨-, -, -, rfl⟩ := exec_next_iff.mp hexec
    exact ⟨rfl, rfl, rfl⟩

end Sys2Proof.Machine

/-! PROOFS. Frames, independence of the registers, `POWER`, and the sequences that leave RAM or the draws alone
(10_state.md, 44_power.md, 70_reset_and_hazards.md). -/

namespace Sys2Proof.Machine

/-! ### Frames -/

theorem State.romByte_congr {s t : State} (h : t.launch = s.launch) (k : Nat) : t.romByte k = s.romByte k := by
  rw [State.romByte, h, State.romByte]

/-- Only `RD_FOREIGN` draws a free value. -/
theorem effect_draws_of_ne_rdForeign {i : Instr} (h : ∀ a, i ≠ .rdForeign a) (s : State) :
    (effect i s).draws = s.draws := by
  cases i with
  | rdForeign a => exact absurd rfl (h a)
  | wrRam a d => exact State.ramWindowStore_draws s a d
  | _ => rfl

/-- Settles O55: a defined read only delivers its `dout`. -/
theorem frameOfDefinedReads : Obligations.FrameOfDefinedReads := by
  intro i s t a hi hexec
  obtain ⟨b, hb⟩ := s.exists_dout_of_read hi
  obtain ⟨-, -, -, rfl⟩ := exec_next_iff.mp hexec
  rw [effect_of_dout hb]
  exact ⟨rfl, rfl, rfl, fun _ => rfl, fun _ => rfl, rfl, rfl, rfl⟩

/-- Settles O56: each register write updates its own register and completes. -/
theorem frameOfRegisterWrites : Obligations.FrameOfRegisterWrites := by
  intro i s t a d hi hexec
  obtain ⟨-, -, -, rfl⟩ := exec_next_iff.mp hexec
  rcases hi with rfl | rfl | rfl
  · exact ⟨.inl rfl, .inr rfl, .inr rfl, fun _ => rfl, fun _ => rfl, rfl, rfl, rfl⟩
  · exact ⟨.inr rfl, .inl rfl, .inr rfl, fun _ => rfl, fun _ => rfl, rfl, rfl, rfl⟩
  · exact ⟨.inr rfl, .inr rfl, .inl rfl, fun _ => rfl, fun _ => rfl, rfl, rfl, rfl⟩

/-- Settles O57: the registers are kept, and a byte that `ramAddr` does not name too. -/
theorem frameOfWrRam : Obligations.FrameOfWrRam := by
  intro s t a d hexec
  obtain ⟨-, -, -, rfl⟩ := exec_next_iff.mp hexec
  refine ⟨effect_ramEnable _ s, effect_romBank _ s, effect_ramBank _ s, fun j hj k hk => ?_, fun hnone k => ?_,
    State.romByte_congr (effect_launch _ s), effect_launch _ s, effect_bus _ s,
    effect_draws_of_ne_rdForeign (fun _ => Instr.noConfusion) s⟩
  · exact ramByte_effect_wrRam_other (by rw [hj]; exact fun h => hk (Option.some.inj h).symm)
  · exact ramByte_effect_wrRam_other (by rw [hnone]; exact nofun)

/-- Settles O58: the three effects change the output, and `RD_FOREIGN` the draw counter. -/
theorem frameOfIgnoredAndForeign : Obligations.FrameOfIgnoredAndForeign := by
  intro i s t a d hi hexec
  obtain ⟨-, -, -, rfl⟩ := exec_next_iff.mp hexec
  rcases hi with rfl | rfl | rfl
  · exact ⟨rfl, rfl, rfl, fun _ => rfl, fun _ => rfl, rfl, rfl, .inr rfl⟩
  · exact ⟨rfl, rfl, rfl, fun _ => rfl, fun _ => rfl, rfl, rfl, .inr rfl⟩
  · exact ⟨rfl, rfl, rfl, fun _ => rfl, fun _ => rfl, rfl, rfl, .inl rfl⟩

/-- Settles O59: `POWER` writes the three registers and completes. -/
theorem frameOfPower : Obligations.FrameOfPower := by
  intro s t hexec
  obtain ⟨-, -, -, rfl⟩ := exec_next_iff.mp hexec
  exact ⟨fun _ => rfl, fun _ => rfl, rfl, rfl, rfl⟩

/-- Every operation but `POWER` leaves two of the three registers. -/
theorem effect_writes_one_register {i : Instr} (h : i ≠ .power) (s : State) :
    ((effect i s).romBank = s.romBank ∧ (effect i s).ramBank = s.ramBank) ∨
      ((effect i s).ramEnable = s.ramEnable ∧ (effect i s).ramBank = s.ramBank) ∨
      ((effect i s).ramEnable = s.ramEnable ∧ (effect i s).romBank = s.romBank) := by
  rw [effect_ramEnable, effect_romBank, effect_ramBank]
  cases i with
  | power => exact absurd rfl h
  | wrRomsel a d => exact .inr (.inl ⟨rfl, rfl⟩)
  | wrRamsel a d => exact .inr (.inr ⟨rfl, rfl⟩)
  | _ => exact .inl ⟨rfl, rfl⟩

/-- Settles O50: the frames of the four writes, and `effect_writes_one_register`. -/
theorem registersAreIndependent : Obligations.RegistersAreIndependent := by
  intro i s t hexec
  obtain ⟨-, -, -, rfl⟩ := exec_next_iff.mp hexec
  refine ⟨?ramen, ?romsel, ?ramsel, ?ram, fun hi => effect_writes_one_register hi s⟩
  case ramen => rintro a d rfl; exact ⟨rfl, rfl, rfl⟩
  case romsel => rintro a d rfl; exact ⟨rfl, rfl, rfl⟩
  case ramsel => rintro a d rfl; exact ⟨rfl, rfl, rfl⟩
  case ram =>
    rintro a d rfl
    refine ⟨effect_ramEnable _ s, effect_romBank _ s, effect_ramBank _ s, fun k hk => ?_⟩
    exact ramByte_effect_wrRam_other fun h => hk (ite_ramSel_eq_some h).2.symm

/-! ### POWER and construction (R140 to R142) -/

/-- Settles O39: `POWER` completes, and its effect is the three power-on values. -/
theorem powerResetsTheRegisters : Obligations.PowerResetsTheRegisters :=
  fun _ hl => exec_power hl

/-- Settles O41: the constructed state holds the power-on values, so `POWER` writes what is there. -/
theorem constructionIsThePowerState : Obligations.ConstructionIsThePowerState :=
  fun l m hl => ⟨rfl, rfl, rfl, rfl, rfl, exec_power (s := State.construct l m) hl⟩

/-- Settles O42: a `WR_ROMSEL` of 0 stores the power-on value, which the constructed state holds. -/
theorem resetBankIsTheRemappedZero : Obligations.ResetBankIsTheRemappedZero := by
  intro l m a hl ha
  have hexec : exec (.wrRomsel a 0#8) (State.construct l m) =
      .next ((State.construct l m).setRomBank (romBankValue l.cfg 0#8)).complete :=
    exec_of_legal Instr.noConfusion hl ha
  rw [hexec, romBankValue_zero]
  rfl

/-- Settles O43: none of the three operations before the read writes RAM, and the second opens the gate. The index read
is `ramIndex` in both modes; in `ROM_HIGH` that is the spec's own reading (D9; entry 16). -/
theorem ramSurvivesPower : Obligations.RamSurvivesPower := by
  intro s a e b d v hl hbanks ha he hb hen
  have h₁ : exec .power s = .next (effect .power s) := exec_power hl
  have h₂ := exec_of_legal (i := .wrRamen e d) (s := effect .power s) Instr.noConfusion hl he
  have h₃ := exec_of_legal (i := .wrRamsel b v) (s := effect (.wrRamen e d) (effect .power s)) Instr.noConfusion hl hb
  have h₄ := exec_rdRam (s := effect (.wrRamsel b v) (effect (.wrRamen e d) (effect .power s))) hl ha
  have hsel : (effect (.wrRamsel b v) (effect (.wrRamen e d) (effect .power s))).ramSel = true :=
    (State.ramSel_iff _).mpr ⟨hen, hbanks⟩
  exact ⟨_, _, _, _, h₁, h₂, h₃, h₄, exec_rdRam_open_out hsel h₄⟩

/-! ### Disabled RAM (R51, R187) -/

/-- Through the closed gate nothing reaches RAM. -/
theorem effect_ram_of_closed (i : Instr) {s : State} (h : s.ramSel = false) : (effect i s).ram = s.ram := by
  cases i with
  | wrRam a d => rw [effect, State.complete_ram, State.ramWindowStore_closed h]
  | _ => rfl

/-- A disabled latch is set by exactly the words that open the gate. -/
theorem nextRamEnable_disabled (c : Cfg) (w : TWord) : nextRamEnable c (decode c w) false = opensGate c w := by
  unfold opensGate
  cases decode c w <;> rfl

/-- Settles O53, by induction on the sequence: the latch stays clear, so the gate stays closed. -/
theorem disabledRamIsUntouched : Obligations.DisabledRamIsUntouched := by
  intro ws
  induction ws with
  | nil =>
    intro s t hen _ hfold
    obtain rfl : s = t := by simpa [foldWords] using hfold
    exact ⟨hen, rfl⟩
  | cons w ws ih =>
    intro s t hen hws hfold
    obtain ⟨hw, hws⟩ := List.forall_mem_cons.mp hws
    obtain ⟨u, hexec, hrest⟩ := foldWords_cons_next hfold
    obtain ⟨-, -, -, rfl⟩ := exec_next_iff.mp hexec
    have hcfg : (effect (decode s.cfg w) s).cfg = s.cfg := congrArg Launch.cfg (effect_launch _ s)
    have hen' : (effect (decode s.cfg w) s).ramEnable = false := by
      rw [effect_ramEnable, hen, nextRamEnable_disabled, hw]
    have hclosed : s.ramSel = false := by rw [State.ramSel, hen, Bool.false_and]
    obtain ⟨hend, hram⟩ := ih _ t hen' (by rwa [hcfg]) hrest
    exact ⟨hend, hram.trans (effect_ram_of_closed _ hclosed)⟩

/-! ### Sequences that draw no free value (R92, R176) -/

theorem State.ramWindowStore_withDraws (s : State) (n : Nat) (a : Addr) (d : Byte) :
    (s.withDraws n).ramWindowStore a d = (s.ramWindowStore a d).withDraws n := by
  have hsel : (s.withDraws n).ramSel = s.ramSel := rfl
  cases h : s.ramSel with
  | true => rw [State.ramWindowStore_open h, State.ramWindowStore_open (hsel.trans h)]; rfl
  | false => rw [State.ramWindowStore_closed h, State.ramWindowStore_closed (hsel.trans h)]

/-- Only `RD_FOREIGN` reads the draw counter: every other effect commutes with a change of it. -/
theorem effect_withDraws {i : Instr} (h : ∀ a, i ≠ .rdForeign a) (s : State) (n : Nat) :
    effect i (s.withDraws n) = (effect i s).withDraws n := by
  cases i with
  | rdForeign a => exact absurd rfl (h a)
  | wrRam a d => exact congrArg State.complete (s.ramWindowStore_withDraws n a d)
  | _ => rfl

theorem exec_withDraws {i : Instr} {s t : State} (h : ∀ a, i ≠ .rdForeign a) (hexec : exec i s = .next t) (n : Nat) :
    exec i (s.withDraws n) = .next (t.withDraws n) := by
  obtain ⟨hr, hl, hi, rfl⟩ := exec_next_iff.mp hexec
  exact exec_next_iff.mpr ⟨hr, hl, hi, effect_withDraws h s n⟩

theorem decode_ne_rdForeign {c : Cfg} {w : TWord} (h : isForeign c w = false) (a : Addr) :
    decode c w ≠ .rdForeign a := by
  intro hw
  simp [isForeign, hw] at h

/-- Under `NoForeign` a sequence keeps the draw counter, and neither the counter nor what waits on the bus plays a part
in it. -/
theorem foldWords_noForeign {ws : List TWord} {s t : State} (hws : NoForeign s.cfg ws)
    (hfold : foldWords ws s = .next t) (bus : List TWord) (n : Nat) :
    t.draws = s.draws ∧ foldWords ws ((s.setBus bus).withDraws n) = .next ((t.setBus bus).withDraws n) := by
  induction ws generalizing s with
  | nil =>
    obtain rfl : s = t := by simpa [foldWords] using hfold
    exact ⟨rfl, rfl⟩
  | cons w ws ih =>
    obtain ⟨hw, hws⟩ := List.forall_mem_cons.mp hws
    have hne := decode_ne_rdForeign hw
    obtain ⟨u, hexec, hrest⟩ := foldWords_cons_next hfold
    have hexec' := exec_withDraws hne (exec_setBus_next bus hexec) n
    have hcfg : u.cfg = s.cfg := congrArg Launch.cfg (exec_keeps_launch hexec)
    obtain ⟨hdraws, hfold'⟩ := ih (by rwa [hcfg]) hrest
    obtain ⟨-, -, -, rfl⟩ := exec_next_iff.mp hexec
    exact ⟨hdraws.trans (effect_draws_of_ne_rdForeign hne s),
      (foldWords_cons_of_next (s := (s.setBus bus).withDraws n) hexec').trans hfold'⟩

/-- Settles O54: the second state's fold is the first's up to the bus and the draw counter. -/
theorem noForeignDrawsNothing : Obligations.NoForeignDrawsNothing := by
  intro ws s s' t t' hws hlaunch hsnap hout hfold hfold'
  obtain ⟨hdraws, hsame⟩ := foldWords_noForeign hws hfold s'.bus s'.draws
  have hs' : s' = (s.setBus s'.bus).withDraws s'.draws := by
    have hagree := State.eq_of_agree hlaunch hsnap
    rw [← hout] at hagree
    exact hagree
  rw [← hs', hfold', Host.Outcome.next.injEq] at hsame
  subst hsame
  exact ⟨hdraws, rfl, rfl⟩

end Sys2Proof.Machine
